-- ==== Sys2Proof/Word.lean ====
section
/-!
DEFINITION. The bit-vector types of the block (00_scope.md R6, R7; 30_encoding.md R60).
-/

namespace Sys2Proof

/-- A word, 16 bits: every register, the data ports and each DAC port (R6, `W`). -/
abbrev Word := BitVec 16

/-- A register address, 4 bits (R6, `ADDR_BITS`; R41). -/
abbrev Addr := BitVec 4

/-- A command word, format `C`, 23 bits: `RST` 22, `TICK` 21, `WE` 20, `ADDR` 19:16, `WDATA` 15:0 (R60). -/
abbrev Command := BitVec 23

/-- A read word, format `R`, 4 bits: `RADDR` 3:0 (R60). -/
abbrev ReadWord := BitVec 4

end Sys2Proof
end

