-- ==== Sys2Proof/Syntax.lean ====
section
/-!
DEFINITION. The operations of the block, one constructor per row of spec/opcode_table.json (30_encoding.md R65).
The block is not programmable: an operation is what one clock cycle's input word asks for (R64).
-/

namespace Sys2Proof

/-- The operations of 30_encoding.md R65. `TICK` and one write may share a cycle: they are then two operations of
that cycle (R64), not one constructor. -/
inductive Instr where
  /-- `RESET` (R170). -/
  | reset
  /-- `TICK`: Emit, Advance, acknowledge (R135). -/
  | tick
  /-- `WR_PINC #d` (R110). -/
  | wrPinc (d : Word)
  /-- `WR_PMAX #d` (R111). -/
  | wrPmax (d : Word)
  /-- `WR_GAIN #d` (R112). -/
  | wrGain (d : Word)
  /-- `WR_OFFS #d` (R113). -/
  | wrOffs (d : Word)
  /-- `WR_IGN`, row `ADDR = 01aa`: `WR @a, #d` with `a` in 0x4..0x7 (R114). -/
  | wrIgn4 (a : Addr) (d : Word)
  /-- `WR_IGN`, row `ADDR = 10aa`: `WR @a, #d` with `a` in 0x8..0xB (R114). -/
  | wrIgn8 (a : Addr) (d : Word)
  /-- `WR_IGN`, row `ADDR = 11aa`: `WR @a, #d` with `a` in 0xC..0xF (R114). -/
  | wrIgnC (a : Addr) (d : Word)
  /-- `NOP`: an idle cycle (R117). -/
  | nop
  /-- `RD a` (R116). -/
  | rd (a : Addr)
  deriving DecidableEq, Repr

end Sys2Proof
end

