-- ==== Sys2Proof/WellFormed.lean ====
section
/-!
DEFINITION. Which terms of `Instr` an encoding exists for (30_encoding.md R63, R65). Every operand is as wide as
its field, so the only checks are those of the three `WR_IGN` rows: each row fixes `ADDR[3:2]`.
-/

namespace Sys2Proof

/-- The check of each row of R65: a `WR_IGN` term names an address of its own row, every other term is well
formed. -/
def Instr.wellFormed : Instr → Bool
  | .reset => true
  | .tick => true
  | .wrPinc _ => true
  | .wrPmax _ => true
  | .wrGain _ => true
  | .wrOffs _ => true
  | .wrIgn4 a _ => a.extractLsb' 2 2 == 1#2
  | .wrIgn8 a _ => a.extractLsb' 2 2 == 2#2
  | .wrIgnC a _ => a.extractLsb' 2 2 == 3#2
  | .nop => true
  | .rd _ => true

end Sys2Proof
end

