-- ==== Sys2Proof/Decode.lean ====
section
/-!
DEFINITION. Decoding one cycle's input words into the operations of that cycle, and encoding them
(30_encoding.md R60, R63 to R67). Decoding is total and rejects nothing: every one of the 2^23 command words and of
the 16 read words has a meaning (R64, R66).
-/

namespace Sys2Proof

/-! ## The fields of a command word (R60) -/

/-- `RST`, bit 22. -/
def cmdRst (w : Command) : Bool := w.getLsbD 22

/-- `TICK`, bit 21. -/
def cmdTick (w : Command) : Bool := w.getLsbD 21

/-- `WE`, bit 20. -/
def cmdWe (w : Command) : Bool := w.getLsbD 20

/-- `ADDR`, bits 19:16. -/
def cmdAddr (w : Command) : Addr := w.extractLsb' 16 4

/-- `WDATA`, bits 15:0, used as it stands (R63). -/
def cmdWdata (w : Command) : Word := w.extractLsb' 0 16

/-! ## Decoding -/

/-- The write a cycle with `WE = 1` performs, by its address (R65): 0x0 to 0x3 name the four parameter registers,
every other address is one of the three `WR_IGN` rows, by its bits 3:2. -/
def decodeWrite (a : Addr) (d : Word) : Instr :=
  if a = 0x0#4 then .wrPinc d
  else if a = 0x1#4 then .wrPmax d
  else if a = 0x2#4 then .wrGain d
  else if a = 0x3#4 then .wrOffs d
  else if a.extractLsb' 2 2 = 1#2 then .wrIgn4 a d
  else if a.extractLsb' 2 2 = 2#2 then .wrIgn8 a d
  else .wrIgnC a d

/-- The operations of a command word, in the order the cycle performs them: lines 2 to 5 of R64. -/
def decodeCommand (w : Command) : List Instr :=
  if cmdRst w then [.reset]
  else if cmdTick w then
    if cmdWe w then [.tick, decodeWrite (cmdAddr w) (cmdWdata w)] else [.tick]
  else
    if cmdWe w then [decodeWrite (cmdAddr w) (cmdWdata w)] else [.nop]

/-- The operation of a read word: line 1 of R64. -/
def decodeRead (r : ReadWord) : Instr := .rd r

/-! ## Encoding -/

/-- An encoded operation: a word of one of the two formats of R60. -/
inductive Encoded where
  /-- A command word, format `C`. -/
  | command (w : Command)
  /-- A read word, format `R`. -/
  | read (r : ReadWord)
  deriving DecidableEq, Repr

/-- Decoding a word of either format. -/
def decode : Encoded → List Instr
  | .command w => decodeCommand w
  | .read r => [decodeRead r]

/-- The command word `RST`, `TICK`, `WE`, `ADDR`, `WDATA` put together (R60). -/
def packCommand (rst tick we : Bool) (a : Addr) (d : Word) : Command :=
  BitVec.ofBool rst ++ BitVec.ofBool tick ++ BitVec.ofBool we ++ a ++ d

/-- The canonical command word of a write to address `a`: `0x100000 + a * 0x10000 + d` (R65, R114). -/
def encodeWrite (a : Addr) (d : Word) : Command := packCommand false false true a d

/-- The canonical word of an operation, every don't-care bit zero (R65). -/
def encode : Instr → Encoded
  | .reset => .command (packCommand true false false 0 0)
  | .tick => .command (packCommand false true false 0 0)
  | .wrPinc d => .command (encodeWrite 0x0#4 d)
  | .wrPmax d => .command (encodeWrite 0x1#4 d)
  | .wrGain d => .command (encodeWrite 0x2#4 d)
  | .wrOffs d => .command (encodeWrite 0x3#4 d)
  | .wrIgn4 a d => .command (encodeWrite a d)
  | .wrIgn8 a d => .command (encodeWrite a d)
  | .wrIgnC a d => .command (encodeWrite a d)
  | .nop => .command (packCommand false false false 0 0)
  | .rd a => .read a

/-- The command word of an operation of format `C`; `RD` has none, so it asks for nothing of the command word. -/
def commandOf (i : Instr) : Command :=
  match encode i with
  | .command w => w
  | .read _ => 0

/-- The command word of several operations that share a cycle: the bitwise or of their canonical words (R65). -/
def encodeOps : List Instr → Command
  | [] => 0
  | i :: is => commandOf i ||| encodeOps is

/-! ## The opcode table -/

/-- One row of the table of R65 for format `C`. A command word `w` matches the row when `w &&& mask = pattern`. -/
structure OpcodeRow where
  /-- The row's mnemonic. -/
  mnemonic : String
  /-- The bits the row fixes. -/
  mask : Command
  /-- Their values. -/
  pattern : Command
  deriving DecidableEq, Repr

/-- The ten command rows of R65, in its order. -/
def opcodeRows : List OpcodeRow :=
  [ ⟨"RESET", 0x400000#23, 0x400000#23⟩,
    ⟨"TICK", 0x600000#23, 0x200000#23⟩,
    ⟨"WR_PINC", 0x5F0000#23, 0x100000#23⟩,
    ⟨"WR_PMAX", 0x5F0000#23, 0x110000#23⟩,
    ⟨"WR_GAIN", 0x5F0000#23, 0x120000#23⟩,
    ⟨"WR_OFFS", 0x5F0000#23, 0x130000#23⟩,
    ⟨"WR_IGN", 0x5C0000#23, 0x140000#23⟩,
    ⟨"WR_IGN", 0x5C0000#23, 0x180000#23⟩,
    ⟨"WR_IGN", 0x5C0000#23, 0x1C0000#23⟩,
    ⟨"NOP", 0x700000#23, 0x000000#23⟩ ]

/-- Whether a command word matches a row (R65). -/
def OpcodeRow.accepts (r : OpcodeRow) (w : Command) : Bool := w &&& r.mask == r.pattern

/-- The mnemonic of an operation, as the table of R65 spells it. -/
def Instr.mnemonic : Instr → String
  | .reset => "RESET"
  | .tick => "TICK"
  | .wrPinc _ => "WR_PINC"
  | .wrPmax _ => "WR_PMAX"
  | .wrGain _ => "WR_GAIN"
  | .wrOffs _ => "WR_OFFS"
  | .wrIgn4 _ _ => "WR_IGN"
  | .wrIgn8 _ _ => "WR_IGN"
  | .wrIgnC _ _ => "WR_IGN"
  | .nop => "NOP"
  | .rd _ => "RD"

/-- The one operation a table word stands for: of at most 8 bits, a read word (bits 3:0); otherwise a command word
(bits 22:0). Where `TICK` shares the cycle with a write the answer is the write, whose row fixes more bits.
DESIGN CHOICE, safe (log 11, log 12). -/
def decodeTableWord (nbits w : Nat) : Option Instr :=
  if nbits ≤ 8 then some (decodeRead (BitVec.ofNat 4 w))
  else (decodeCommand (BitVec.ofNat 23 w)).getLast?

end Sys2Proof
end

