-- ==== Sys2Proof/Config.lean ====
section
/-!
DEFINITION. The three implementation parameters of 00_scope.md R5, fixed when the block is built and no part
of its state (10_state.md R19). The values this hardware takes are in Machine/SineTable.lean.
-/

namespace Sys2Proof

/-- The configuration of one block (R5; 92_eei_decisions.md D32). -/
structure Config where
  /-- `INTERP`: true selects the interpolated lookup R92, false the plain lookup R93. -/
  interp : Bool
  /-- `DAC_BITS`, the DAC's native width, in 1..16. -/
  dacBits : Nat
  /-- `SINTAB`, 256 words each read as a signed integer (R90). -/
  sintab : Vector Word 256
  deriving DecidableEq, Repr

/-- `DAC_BITS` is in its range 1..16 (R5). The other two parameters have their ranges in their types. -/
def Config.wf (c : Config) : Bool := decide (1 ≤ c.dacBits) && decide (c.dacBits ≤ 16)

end Sys2Proof
end

