-- ==== Sys2Proof/Machine/SineTable.lean ====
section
/-!
DEFINITION. The parameters this hardware takes: `INTERP = 1`, `DAC_BITS = 12` and the sine table of
41_sine_interpolator.md R91 (00_scope.md R5).
-/

namespace Sys2Proof.Machine

/-- Entries 0 to 63 of the table of R91, eight a line as there. -/
def sineEntries0 : List Int :=
  [ 0, 804, 1608, 2410, 3212, 4011, 4808, 5602,
    6393, 7179, 7962, 8739, 9512, 10278, 11039, 11793,
    12539, 13279, 14010, 14732, 15446, 16151, 16846, 17530,
    18204, 18868, 19519, 20159, 20787, 21403, 22005, 22594,
    23170, 23731, 24279, 24811, 25329, 25832, 26319, 26790,
    27245, 27683, 28105, 28510, 28898, 29268, 29621, 29956,
    30273, 30571, 30852, 31113, 31356, 31580, 31785, 31971,
    32137, 32285, 32412, 32521, 32609, 32678, 32728, 32757 ]

/-- Entries 64 to 127 of the table of R91, eight a line as there. -/
def sineEntries1 : List Int :=
  [ 32767, 32757, 32728, 32678, 32609, 32521, 32412, 32285,
    32137, 31971, 31785, 31580, 31356, 31113, 30852, 30571,
    30273, 29956, 29621, 29268, 28898, 28510, 28105, 27683,
    27245, 26790, 26319, 25832, 25329, 24811, 24279, 23731,
    23170, 22594, 22005, 21403, 20787, 20159, 19519, 18868,
    18204, 17530, 16846, 16151, 15446, 14732, 14010, 13279,
    12539, 11793, 11039, 10278, 9512, 8739, 7962, 7179,
    6393, 5602, 4808, 4011, 3212, 2410, 1608, 804 ]

/-- Entries 128 to 191 of the table of R91, eight a line as there. -/
def sineEntries2 : List Int :=
  [ 0, -804, -1608, -2410, -3212, -4011, -4808, -5602,
    -6393, -7179, -7962, -8739, -9512, -10278, -11039, -11793,
    -12539, -13279, -14010, -14732, -15446, -16151, -16846, -17530,
    -18204, -18868, -19519, -20159, -20787, -21403, -22005, -22594,
    -23170, -23731, -24279, -24811, -25329, -25832, -26319, -26790,
    -27245, -27683, -28105, -28510, -28898, -29268, -29621, -29956,
    -30273, -30571, -30852, -31113, -31356, -31580, -31785, -31971,
    -32137, -32285, -32412, -32521, -32609, -32678, -32728, -32757 ]

/-- Entries 192 to 255 of the table of R91, eight a line as there. -/
def sineEntries3 : List Int :=
  [ -32767, -32757, -32728, -32678, -32609, -32521, -32412, -32285,
    -32137, -31971, -31785, -31580, -31356, -31113, -30852, -30571,
    -30273, -29956, -29621, -29268, -28898, -28510, -28105, -27683,
    -27245, -26790, -26319, -25832, -25329, -24811, -24279, -23731,
    -23170, -22594, -22005, -21403, -20787, -20159, -19519, -18868,
    -18204, -17530, -16846, -16151, -15446, -14732, -14010, -13279,
    -12539, -11793, -11039, -10278, -9512, -8739, -7962, -7179,
    -6393, -5602, -4808, -4011, -3212, -2410, -1608, -804 ]

/-- The 256 entries of R91. -/
def sineEntries : List Int := sineEntries0 ++ sineEntries1 ++ sineEntries2 ++ sineEntries3

theorem sineEntries_length : sineEntries.length = 256 := by
  have h0 : sineEntries0.length = 64 := rfl
  have h1 : sineEntries1.length = 64 := rfl
  have h2 : sineEntries2.length = 64 := rfl
  have h3 : sineEntries3.length = 64 := rfl
  unfold sineEntries
  rw [List.length_append, List.length_append, List.length_append, h0, h1, h2, h3]

/-- The table of R91 as 256 signed words (R25, R90). -/
def hardwareSintab : Vector Word 256 :=
  ⟨(sineEntries.map (BitVec.ofInt 16)).toArray, by
    rw [List.size_toArray, List.length_map, sineEntries_length]⟩

/-- The configuration of this hardware (R5). DESIGN CHOICE, unsafe: the three values are the spec's own defaults
for parameters it leaves open (log 6). -/
def hardwareConfig : Config := { interp := true, dacBits := 12, sintab := hardwareSintab }

end Sys2Proof.Machine
end

