-- ==== Sys2Proof/Machine/Operands.lean ====
section
/-!
DEFINITION. The readings of a word and the arithmetic notation of 00_scope.md R7, and the constants of R6.
-/

namespace Sys2Proof.Machine

/-- `sint(v)`: the two's-complement value of a word (R7). -/
def sint (v : Word) : Int := v.toInt

/-- `uint(v)`: the unsigned value of a word (R7). -/
def uint (v : Word) : Int := (v.toNat : Int)

/-- `word(n)`: the word whose unsigned value is `n mod 65536` (R7). -/
def word (n : Int) : Word := BitVec.ofInt 16 n

/-- `floor(x / 2^k)`: the arithmetic right shift, toward minus infinity (R7, R180; 92_eei_decisions.md D29).
Lean's division of integers by a positive divisor rounds toward minus infinity. -/
def floorShift (x : Int) (k : Nat) : Int := x / 2 ^ k

/-- `INDEX`, bits 15:8 of a phase (R16). -/
def phaseIndex (a : Word) : BitVec 8 := a.extractLsb' 8 8

/-- `FRAC`, bits 7:0 of a phase (R16). -/
def phaseFrac (a : Word) : BitVec 8 := a.extractLsb' 0 8

/-- `fullCircleUnits` (R6). -/
def fullCircleUnits : Int := 65536

/-- `halfCircleUnits` (R6). -/
def halfCircleUnits : Int := 32767

/-- `fullScalePositive` (R6). -/
def fullScalePositive : Int := 32767

/-- `PHASE_120`, the phase offset of lane 2 (R6). -/
def phase120 : Int := 21845

/-- `PHASE_240`, the phase offset of lane 3 (R6). -/
def phase240 : Int := 43690

/-- `MIDSCALE_BIAS`, "half the full-scale range" (R6). -/
def midscaleBias : Int := 32768

end Sys2Proof.Machine
end

