-- ==== Sys2Proof/Machine/State.lean ====
section
/-!
DEFINITION. The state of the machine: the block's eleven registers (10_state.md R10), and beside them, as plain
data, what the environment will present on the input pins, what the block drove on its output pins, the event
history, and TIMER's one bit.
-/

namespace Sys2Proof.Machine

/-- The state of the block, whole: eleven 16-bit registers and nothing else (R10). -/
structure Regs where
  /-- `PINC`, address 0x0: `phaseIncrement`, read as signed (R12). -/
  pinc : Word
  /-- `PMAX`, address 0x1: `maxPhaseIncrement`, read as unsigned (R13). -/
  pmax : Word
  /-- `GAIN`, address 0x2, a signed Q15 multiplier (R14). -/
  gain : Word
  /-- `OFFS`, address 0x3, a signed Q15 addend (R15). -/
  offs : Word
  /-- `PHASE`, address 0x4: `INDEX` in bits 15:8, `FRAC` in bits 7:0 (R16). -/
  phase : Word
  /-- `SAMPLE1`, address 0x5, read as signed (R17). -/
  sample1 : Word
  /-- `SAMPLE2`, address 0x6 (R17). -/
  sample2 : Word
  /-- `SAMPLE3`, address 0x7 (R17). -/
  sample3 : Word
  /-- `DACLAST1`, address 0x8: the last word given to DAC channel 1 (R18). -/
  dacLast1 : Word
  /-- `DACLAST2`, address 0x9 (R18). -/
  dacLast2 : Word
  /-- `DACLAST3`, address 0xA (R18). -/
  dacLast3 : Word
  deriving DecidableEq, Repr

/-- The three DAC channels and the three lanes that feed them: sample `n` goes to channel `n` (R132). -/
inductive Channel where
  | ch1
  | ch2
  | ch3
  deriving DecidableEq, Repr

/-- An output event, what an observer outside the block sees (R8, R9). -/
inductive Event where
  /-- DAC channel `ch` receives the word `v` (R132). -/
  | dacWrite (ch : Channel) (v : Word)
  /-- The tick is acknowledged (R134). -/
  | ack
  deriving DecidableEq, Repr

/-- The output pins of a cycle (30_encoding.md R62). -/
structure Pins where
  tickAck : Bool
  dacWe : Bool
  dac1 : Word
  dac2 : Word
  dac3 : Word
  rdata : Word
  deriving DecidableEq, Repr

/-- The input vector of a cycle: one command word and one read word (R60). -/
structure Input where
  command : Command
  read : ReadWord
  deriving DecidableEq, Repr

/-- The machine: the block, its pins, and the plain data of its environment and observer. -/
structure State where
  /-- The block's registers (R10). -/
  regs : Regs
  /-- The output pins as driven in the latest cycle (R62; log 4). -/
  pins : Pins
  /-- The event history, oldest first (R8, R9; log 3). No rule of the block reads it (R19). -/
  events : List Event
  /-- TIMER's bit "awaiting acknowledge" (R151; log 5). No rule of the block reads it. -/
  timerAwaiting : Bool
  /-- The input vectors the environment will present, the next one first (R4, R60; log 1). -/
  inputs : List Input
  deriving DecidableEq, Repr

/-- The faults of the machine: none. The block raises no exception of any kind (60_exceptions.md R145), so no
constructor exists and no step can end in a fault. -/
inductive Fault where
  deriving DecidableEq, Repr

/-- The reasons for which a step is refused. -/
inductive Refusal where
  /-- Raised by `exec`'s arm of an instruction that has no meaning yet; safe. No arm of this model raises it. -/
  | notModelled (mnemonic : String)
  deriving DecidableEq, Repr

/-- The registers after `RESET`: all zero (R23, R170). -/
def Regs.reset : Regs :=
  { pinc := 0, pmax := 0, gain := 0, offs := 0, phase := 0, sample1 := 0, sample2 := 0, sample3 := 0,
    dacLast1 := 0, dacLast2 := 0, dacLast3 := 0 }

/-- The output pins of an idle cycle in the reset state (R62, R176). DESIGN CHOICE (log 4). -/
def Pins.reset : Pins :=
  { tickAck := false, dacWe := false, dac1 := 0, dac2 := 0, dac3 := 0, rdata := 0 }

/-- The machine right after a `RESET`: the registers of R23, an empty history (log 3), TIMER not waiting (log 5),
and nothing presented yet (log 1). -/
def State.reset : State :=
  { regs := Regs.reset, pins := Pins.reset, events := [], timerAwaiting := false, inputs := [] }

end Sys2Proof.Machine
end

