-- ==== Sys2Proof/Machine/Ops.lean ====
section
/-!
DEFINITION. The named operations over the state that the meanings share: the primitives `RegRead`, `RegWrite`,
`DacWrite` and `Ack` of 00_scope.md R8, the whole-register-file updates, and the output pins of a cycle
(30_encoding.md R62). There is no exception to take and none to return from (60_exceptions.md R145, R148, R149), and
there are no flags (10_state.md R21).
-/

namespace Sys2Proof.Machine

/-! ## Updates of the registers -/

/-- `PINC <- d`. -/
def State.setPinc (s : State) (d : Word) : State := { s with regs := { s.regs with pinc := d } }

/-- `PMAX <- d`. -/
def State.setPmax (s : State) (d : Word) : State := { s with regs := { s.regs with pmax := d } }

/-- `GAIN <- d`. -/
def State.setGain (s : State) (d : Word) : State := { s with regs := { s.regs with gain := d } }

/-- `OFFS <- d`. -/
def State.setOffs (s : State) (d : Word) : State := { s with regs := { s.regs with offs := d } }

/-- The four writes of `ADVANCE`, together (R102). -/
def State.setGenerator (s : State) (p s1 s2 s3 : Word) : State :=
  { s with regs := { s.regs with phase := p, sample1 := s1, sample2 := s2, sample3 := s3 } }

/-- The register writes of `EMIT` (R132). -/
def State.latchDac (s : State) (c1 c2 c3 : Word) : State :=
  { s with regs := { s.regs with dacLast1 := c1, dacLast2 := c2, dacLast3 := c3 } }

/-- Every register to its reset value (R170). -/
def State.clearRegs (s : State) : State := { s with regs := Regs.reset }

/-! ## The register space (20_memory.md R41) -/

/-- `RegRead(a)` (R116): the register at an address; the reserved addresses 0xB..0xF read as zero. -/
def regRead (r : Regs) (a : Addr) : Word :=
  match a.toNat with
  | 0x0 => r.pinc
  | 0x1 => r.pmax
  | 0x2 => r.gain
  | 0x3 => r.offs
  | 0x4 => r.phase
  | 0x5 => r.sample1
  | 0x6 => r.sample2
  | 0x7 => r.sample3
  | 0x8 => r.dacLast1
  | 0x9 => r.dacLast2
  | 0xA => r.dacLast3
  | _ => 0

/-- `RegWrite(a, v)` (R110 to R115): the addresses with `a[3:2] = 0` are the four parameter registers; a write to
any other address changes nothing (R11, R41, R114). -/
def State.regWrite (s : State) (a : Addr) (v : Word) : State :=
  match a.toNat with
  | 0x0 => s.setPinc v
  | 0x1 => s.setPmax v
  | 0x2 => s.setGain v
  | 0x3 => s.setOffs v
  | _ => s

/-! ## Output pins and events -/

/-- An event is appended to the event history (R8). -/
def State.recordEvent (s : State) (e : Event) : State := { s with events := s.events ++ [e] }

/-- The data pins of one DAC channel carry `v` with `dac_we = 1` (R62). -/
def State.driveDac (s : State) (ch : Channel) (v : Word) : State :=
  match ch with
  | .ch1 => { s with pins := { s.pins with dacWe := true, dac1 := v } }
  | .ch2 => { s with pins := { s.pins with dacWe := true, dac2 := v } }
  | .ch3 => { s with pins := { s.pins with dacWe := true, dac3 := v } }

/-- `tick_ack = 1` (R134). -/
def State.driveAck (s : State) : State := { s with pins := { s.pins with tickAck := true } }

/-- `rdata = v` (R116). -/
def State.driveRdata (s : State) (v : Word) : State := { s with pins := { s.pins with rdata := v } }

/-- The pins of a cycle in which no tick is serviced: `tick_ack` and `dac_we` are 0 and the DAC data pins repeat
`DACLAST1..3` (R62, R117). -/
def State.holdPins (s : State) : State :=
  { s with pins := { s.pins with
      tickAck := false, dacWe := false,
      dac1 := s.regs.dacLast1, dac2 := s.regs.dacLast2, dac3 := s.regs.dacLast3 } }

/-- `DacWrite(ch, v)`: the event is recorded and the port is driven (R8, R132). -/
def State.dacWrite (s : State) (ch : Channel) (v : Word) : State := (s.recordEvent (.dacWrite ch v)).driveDac ch v

/-- `Ack()`: the event is recorded and `tick_ack` is pulsed (R8, R134). -/
def State.ack (s : State) : State := (s.recordEvent .ack).driveAck

/-! ## The environment -/

/-- The input vectors still to be presented (log 1). -/
def State.setInputs (s : State) (l : List Input) : State := { s with inputs := l }

/-- TIMER's bit "awaiting acknowledge" (R151; log 5). -/
def State.setTimerAwaiting (s : State) (b : Bool) : State := { s with timerAwaiting := b }

end Sys2Proof.Machine
end

