-- ==== Sys2Proof/Machine/PhaseAccumulator.lean ====
section
/-!
DEFINITION. Sub-block phase_accumulator: the step and the accumulation (40_phase_accumulator.md).
-/

namespace Sys2Proof.Machine

/-- `STEP` (R80): the per-tick phase advance, `word(floor(sint(PINC) * uint(PMAX) / 2^15))`. -/
def phaseStep (pinc pmax : Word) : Word := word (floorShift (sint pinc * uint pmax) 15)

/-- `ACCUMULATE` (R81): a 16-bit add, the carry out of bit 15 dropped. -/
def accumulate (phase step : Word) : Word := word (uint phase + uint step)

end Sys2Proof.Machine
end

