-- ==== Sys2Proof/Machine/SineInterpolator.lean ====
section
/-!
DEFINITION. Sub-block sine_interpolator: the table lookup and the blend (41_sine_interpolator.md).
-/

namespace Sys2Proof.Machine

/-- `Rom(k)`: entry `k` of `SINTAB` as a signed integer (R90). -/
def rom (c : Config) (k : BitVec 8) : Int := sint (c.sintab[k.toNat]'(by have := k.isLt; omega))

/-- `SINE(a)`: with `INTERP = 1` the linear blend of entry `INDEX` and the next one, the entry after 255 being
entry 0 (R92); with `INTERP = 0` the plain entry (R93). -/
def sine (c : Config) (a : Word) : Int :=
  let y0 := rom c (phaseIndex a)
  let y1 := rom c (phaseIndex a + 1)
  if c.interp then y0 + floorShift ((y1 - y0) * ((phaseFrac a).toNat : Int)) 8 else y0

end Sys2Proof.Machine
end

