-- ==== Sys2Proof/Machine/ThreePhaseGenerator.lean ====
section
/-!
DEFINITION. Sub-block three_phase_generator: lanes, gain, offset and the Advance step
(42_three_phase_generator.md).
-/

namespace Sys2Proof.Machine

/-- `LANEPHASE(n, p)` (R100): lanes 2 and 3 lead lane 1 by 120 and 240 degrees. -/
def lanePhase (ch : Channel) (p : Word) : Word :=
  match ch with
  | .ch1 => p
  | .ch2 => word (uint p + phase120)
  | .ch3 => word (uint p + phase240)

/-- `SCALE(y)` (R101): gain, then offset; the sum wraps and nothing saturates. -/
def scale (gain offs : Word) (y : Int) : Word := word (floorShift (y * sint gain) 15 + sint offs)

/-- The sample of one lane at the new phase: `SCALE(SINE(LANEPHASE(n, phase')))` (R102, R184). -/
def laneSample (c : Config) (gain offs : Word) (ch : Channel) (p : Word) : Word :=
  scale gain offs (sine c (lanePhase ch p))

/-- The phase after one tick, `phase'` of R102: accumulate first, then look up. -/
def nextPhase (r : Regs) : Word := accumulate r.phase (phaseStep r.pinc r.pmax)

/-- `ADVANCE` (R102): the new phase and the three samples computed from it, written together. -/
def advance (c : Config) (s : State) : State :=
  let p := nextPhase s.regs
  let sample := fun ch => laneSample c s.regs.gain s.regs.offs ch p
  s.setGenerator p (sample .ch1) (sample .ch2) (sample .ch3)

end Sys2Proof.Machine
end

