-- ==== Sys2Proof/Machine/DacOutputDispatch.lean ====
section
/-!
DEFINITION. Sub-block dac_output_dispatch: the mapping to the DAC's code, Emit, acknowledge, and the meaning of
`TICK` (44_dac_output_dispatch.md).
-/

namespace Sys2Proof.Machine

/-- `MAP(v)` (R130): the biased sample shifted right by `16 - DAC_BITS`. -/
def dacMap (c : Config) (v : Word) : Word := word (floorShift (sint v + midscaleBias) (16 - c.dacBits))

/-- `EMIT` (R132): the three samples of the previous tick go to channels 1, 2, 3, in this order in the history. -/
def emit (c : Config) (s : State) : State :=
  let c1 := dacMap c s.regs.sample1
  let c2 := dacMap c s.regs.sample2
  let c3 := dacMap c s.regs.sample3
  (((s.dacWrite .ch1 c1).dacWrite .ch2 c2).dacWrite .ch3 c3).latchDac c1 c2 c3

/-- `TICK` on a block of configuration `c` (R135): `EMIT`, then `ADVANCE`, then `ACK`. -/
def dispatchSamples (c : Config) (s : State) : State := (advance c (emit c s)).ack

/-- The meaning of `TICK` on a block built with the parameters `c` (R5, R135). -/
def execTickOf (c : Config) (s : State) : Host.Outcome State Fault Refusal := .next (dispatchSamples c s)

/-- The meaning of `TICK` on this hardware, whose parameters are `hardwareConfig` (R5, R135; log 6). -/
def execTick (s : State) : Host.Outcome State Fault Refusal := execTickOf hardwareConfig s

end Sys2Proof.Machine
end

