-- ==== Sys2Proof/Machine/ParameterRegisters.lean ====
section
/-!
DEFINITION. The meanings of the host's operations: the four parameter writes, the ignored writes, the read and the
idle cycle (43_parameter_registers.md R110 to R117).
-/

namespace Sys2Proof.Machine

/-- `WR_PINC #d` (R110). -/
def execWrPinc (d : Word) (s : State) : Host.Outcome State Fault Refusal := .next (s.regWrite 0x0#4 d)

/-- `WR_PMAX #d` (R111). -/
def execWrPmax (d : Word) (s : State) : Host.Outcome State Fault Refusal := .next (s.regWrite 0x1#4 d)

/-- `WR_GAIN #d` (R112). -/
def execWrGain (d : Word) (s : State) : Host.Outcome State Fault Refusal := .next (s.regWrite 0x2#4 d)

/-- `WR_OFFS #d` (R113). -/
def execWrOffs (d : Word) (s : State) : Host.Outcome State Fault Refusal := .next (s.regWrite 0x3#4 d)

/-- `WR_IGN` at 0x4..0x7, the read-only `PHASE` and `SAMPLE1..3` (R114). -/
def execWrIgn4 (a : Addr) (d : Word) (s : State) : Host.Outcome State Fault Refusal := .next (s.regWrite a d)

/-- `WR_IGN` at 0x8..0xB, the read-only `DACLAST1..3` and the reserved 0xB (R114). -/
def execWrIgn8 (a : Addr) (d : Word) (s : State) : Host.Outcome State Fault Refusal := .next (s.regWrite a d)

/-- `WR_IGN` at 0xC..0xF, reserved (R114). -/
def execWrIgnC (a : Addr) (d : Word) (s : State) : Host.Outcome State Fault Refusal := .next (s.regWrite a d)

/-- `RD a` (R116): `rdata` carries `RegRead(a)`; no register changes. -/
def execRd (a : Addr) (s : State) : Host.Outcome State Fault Refusal := .next (s.driveRdata (regRead s.regs a))

/-- `NOP` (R117): every register is kept, `tick_ack` and `dac_we` are 0, the DAC pins repeat `DACLAST1..3`. -/
def execNop (s : State) : Host.Outcome State Fault Refusal := .next s.holdPins

end Sys2Proof.Machine
end

