-- ==== Sys2Proof/Machine/Reset.lean ====
section
/-!
DEFINITION. The meaning of `RESET` (70_reset_and_hazards.md R170, R171).
-/

namespace Sys2Proof.Machine

/-- `RESET` (R170): during the cycle `tick_ack` and `dac_we` are 0 and the DAC pins show the old `DACLAST1..3`; at
its edge every register takes its reset value. No event is produced. -/
def execReset (s : State) : Host.Outcome State Fault Refusal := .next s.holdPins.clearRegs

end Sys2Proof.Machine
end

