-- ==== Sys2Proof/Machine/Dispatch.lean ====
section
/-! DEFINITION. One arm per operation (30_encoding.md R65). -/

namespace Sys2Proof.Machine

def exec (i : Instr) (s : State) : Host.Outcome State Fault Refusal :=
  match i with
  | .reset => Sys2Proof.Machine.execReset s
  | .tick => Sys2Proof.Machine.execTick s
  | .wrPinc d => Sys2Proof.Machine.execWrPinc d s
  | .wrPmax d => Sys2Proof.Machine.execWrPmax d s
  | .wrGain d => Sys2Proof.Machine.execWrGain d s
  | .wrOffs d => Sys2Proof.Machine.execWrOffs d s
  | .wrIgn4 a d => Sys2Proof.Machine.execWrIgn4 a d s
  | .wrIgn8 a d => Sys2Proof.Machine.execWrIgn8 a d s
  | .wrIgnC a d => Sys2Proof.Machine.execWrIgnC a d s
  | .nop => Sys2Proof.Machine.execNop s
  | .rd a => Sys2Proof.Machine.execRd a s

end Sys2Proof.Machine
end

