-- ==== Sys2Proof/Machine/Cycle.lean ====
section
/-!
DEFINITION. One clock cycle: the input vector the environment presents, the operations it decodes to, and their
order (30_encoding.md R60, R62, R64; 20_memory.md R46).
-/

namespace Sys2Proof.Machine

/-- The input vector of a cycle in which no agent presents anything: `rst`, `tick` and `we` are 0, which is `NOP`
(R117), and the read address is 0x0 (R68). DESIGN CHOICE, unsafe for runs past the end of `inputs` (log 1). -/
def idleInput : Input := { command := 0, read := 0 }

/-- The input vector of the next cycle (R60; log 1). -/
def nextInput (s : State) : Input := s.inputs.headD idleInput

/-- The operations of a cycle in the order of R64: `RD` first, then those of the command word. -/
def cycleOps (inp : Input) : List Instr := decodeRead inp.read :: decodeCommand inp.command

/-- The start of a cycle: the input vector is consumed, and the output pins take the values of R62 for a cycle
without a tick; a `TICK` then drives its own. -/
def beginCycle (s : State) : State := (s.setInputs s.inputs.tail).holdPins

/-- What performs one operation: `exec` for this hardware, `execBuild c` for a block of another configuration. -/
abbrev Executor := Instr → State → Host.Outcome State Fault Refusal

/-- The operations of a cycle, each from the state the one before it left (R64, R46). -/
def runOpsWith (ex : Executor) : List Instr → State → Host.Outcome State Fault Refusal
  | [], s => .next s
  | i :: is, s =>
    match ex i s with
    | .next t => runOpsWith ex is t
    | .fault r => .fault r
    | .refused r => .refused r

/-- The operations of a cycle of this hardware. -/
def runOps (ops : List Instr) (s : State) : Host.Outcome State Fault Refusal := runOpsWith exec ops s

/-- What TIMER sees of a cycle (R151): a tick it presented sets its bit "awaiting acknowledge", and `tick_ack` in
the same cycle clears it (log 5). -/
def noteTimer (inp : Input) (s : State) : State :=
  s.setTimerAwaiting (if cmdTick inp.command then !s.pins.tickAck else s.timerAwaiting)

/-- One clock cycle on the input vector `inp`. -/
def runCycleWith (ex : Executor) (inp : Input) (s : State) : Host.Outcome State Fault Refusal :=
  match runOpsWith ex (cycleOps inp) (beginCycle s) with
  | .next t => .next (noteTimer inp t)
  | .fault r => .fault r
  | .refused r => .refused r

/-- One clock cycle of this hardware. -/
def runCycle (inp : Input) (s : State) : Host.Outcome State Fault Refusal := runCycleWith exec inp s

/-- The input vector that presents one word of spec/opcode_table.json: a read word (at most 8 bits) beside an idle
command word, or a command word beside the read address 0x0 (R60, R68; log 2, log 12). -/
def tableInput (nbits w : Nat) : Input :=
  if nbits ≤ 8 then { command := 0, read := BitVec.ofNat 4 w } else { command := BitVec.ofNat 23 w, read := 0 }

end Sys2Proof.Machine
end

