-- ==== Sys2Proof/Machine/Step.lean ====
section
/-!
DEFINITION. The step of the machine: one clock cycle on the next input vector (00_scope.md R4, 30_encoding.md R64).
-/

namespace Sys2Proof.Machine

/-- One clock cycle (R60): the next input vector is consumed and its operations are performed in the order of
R64. -/
def step (s : State) : Host.Outcome State Fault Refusal := runCycle (nextInput s) s

/-- The environment presents one table word in the very next cycle: its input vector goes to the front of `inputs`,
nothing else changes (log 2). -/
def State.withFetchWord (s : State) (nbits w : Nat) : State := s.setInputs (tableInput nbits w :: s.inputs)

end Sys2Proof.Machine
end

