-- ==== Sys2Proof/Machine/Build.lean ====
section
/-!
DEFINITION. The block with its three configuration parameters as an argument (00_scope.md R5; 92_eei_decisions.md D32;
93_implementation_defined.md U14): the machine of any build. The parameters are no state (10_state.md R19), so no
operation changes them, and `TICK` is the one operation that reads them. `exec` and `step` are the build whose
parameters are `hardwareConfig` (log 6).
-/

namespace Sys2Proof.Machine

/-- One operation of a block of configuration `c`. -/
def execBuild (c : Config) (i : Instr) (s : State) : Host.Outcome State Fault Refusal :=
  match i with
  | .reset => execReset s
  | .tick => execTickOf c s
  | .wrPinc d => execWrPinc d s
  | .wrPmax d => execWrPmax d s
  | .wrGain d => execWrGain d s
  | .wrOffs d => execWrOffs d s
  | .wrIgn4 a d => execWrIgn4 a d s
  | .wrIgn8 a d => execWrIgn8 a d s
  | .wrIgnC a d => execWrIgnC a d s
  | .nop => execNop s
  | .rd a => execRd a s

/-- One clock cycle of a block of configuration `c` (R60, R64). -/
def stepBuild (c : Config) (s : State) : Host.Outcome State Fault Refusal :=
  runCycleWith (execBuild c) (nextInput s) s

/-- The machine of a block of configuration `c`, for runs of any build. -/
def buildCore (c : Config) : Host.Core :=
  { State := State, Fault := Fault, Refusal := Refusal, step := stepBuild c, reset := State.reset }

end Sys2Proof.Machine
end

