-- ==== Sys2Proof/Machine/Notation.lean ====
section
/-!
DEFINITION. The notation for operation sequences (30_encoding.md R68): one line per clock cycle, as a term, with the
check of the pairs it allows, the input vector it encodes to, and its text.
-/

namespace Sys2Proof.Machine

/-- One line: `cmd [ "||" cmd ] [ "," "RD" reg ]` (R68). -/
structure Line where
  cmds : List Instr
  rd : Option Addr
  deriving DecidableEq, Repr

/-- A `cmd` that writes a register (R68). -/
def isWrite : Instr → Bool
  | .reset => false
  | .tick => false
  | .wrPinc _ => true
  | .wrPmax _ => true
  | .wrGain _ => true
  | .wrOffs _ => true
  | .wrIgn4 _ _ => true
  | .wrIgn8 _ _ => true
  | .wrIgnC _ _ => true
  | .nop => false
  | .rd _ => false

/-- A `cmd` of the notation: any operation but `RD` (R68). -/
def isCommand : Instr → Bool
  | .reset => true
  | .tick => true
  | .wrPinc _ => true
  | .wrPmax _ => true
  | .wrGain _ => true
  | .wrOffs _ => true
  | .wrIgn4 _ _ => true
  | .wrIgn8 _ _ => true
  | .wrIgnC _ _ => true
  | .nop => true
  | .rd _ => false

/-- The lines of R68: one command, or the pair of `TICK` and one write. -/
def Line.wellFormed (l : Line) : Bool :=
  match l.cmds with
  | [i] => isCommand i && i.wellFormed
  | [i, j] => (i == .tick) && isWrite j && j.wellFormed
  | _ => false

/-- The input vector of a line: its canonical command word, and its read word, 0x0 where it has no `RD` part
(R68). -/
def Line.assemble (l : Line) : Input := { command := encodeOps l.cmds, read := l.rd.getD 0 }

/-- `imm`: 0..65535, or -32768..-1 meaning `word(number)` (R68). -/
def immediate (n : Int) : Option Word := if -32768 ≤ n ∧ n ≤ 65535 then some (word n) else none

/-- The names of R68 for an address of the register space. -/
def regName (a : Addr) : String :=
  match a.toNat with
  | 0x0 => "PINC"
  | 0x1 => "PMAX"
  | 0x2 => "GAIN"
  | 0x3 => "OFFS"
  | 0x4 => "PHASE"
  | 0x5 => "SAMPLE1"
  | 0x6 => "SAMPLE2"
  | 0x7 => "SAMPLE3"
  | 0x8 => "DACLAST1"
  | 0x9 => "DACLAST2"
  | 0xA => "DACLAST3"
  | n => "@" ++ toString n

/-- A write to any address in the notation: `"WR" "@" addr "," imm` (R68). -/
def writeText (a : Addr) (d : Word) : String := "WR @" ++ toString a.toNat ++ ", #" ++ toString d.toNat

/-- The text of an operation, numbers in decimal (R68). -/
def instrText : Instr → String
  | .reset => "RESET"
  | .tick => "TICK"
  | .wrPinc d => "WR_PINC #" ++ toString d.toNat
  | .wrPmax d => "WR_PMAX #" ++ toString d.toNat
  | .wrGain d => "WR_GAIN #" ++ toString d.toNat
  | .wrOffs d => "WR_OFFS #" ++ toString d.toNat
  | .wrIgn4 a d => writeText a d
  | .wrIgn8 a d => writeText a d
  | .wrIgnC a d => writeText a d
  | .nop => "NOP"
  | .rd a => "RD " ++ regName a

/-- The text of a line (R68). -/
def Line.text (l : Line) : String :=
  String.intercalate " || " (l.cmds.map instrText) ++
    (match l.rd with
     | none => ""
     | some a => ", " ++ instrText (.rd a))

end Sys2Proof.Machine
end

