-- ==== Sys2Proof/Machine/NotationText.lean ====
section
/-!
DEFINITION. Reading the text of the notation for operation sequences (30_encoding.md R68): the characters of one line
become tokens, and the tokens become lines.
-/

namespace Sys2Proof.Machine

/-! ## Tokens -/

/-- The characters of R68 that are tokens by themselves. A single `|` is one too, and belongs to no line. -/
def isMark (c : Char) : Bool := c == '#' || c == '@' || c == ',' || c == '|' || c == '-' || c == '*'

/-- A token collected so far, last character first, put before the tokens that follow it. -/
def flushToken (cur : List Char) (rest : List (List Char)) : List (List Char) :=
  if cur.isEmpty then rest else cur.reverse :: rest

/-- The tokens of a line. `||` is one token, and `;` starts a comment, which is dropped (R68). -/
def tokens : List Char → List Char → List (List Char)
  | cur, [] => flushToken cur []
  | cur, '|' :: '|' :: cs => flushToken cur (['|', '|'] :: tokens [] cs)
  | cur, c :: cs =>
    if c == ';' then flushToken cur []
    else if c == ' ' || c == '\t' then flushToken cur (tokens [] cs)
    else if isMark c then flushToken cur ([c] :: tokens [] cs)
    else tokens (c :: cur) cs

/-! ## Numbers -/

/-- The value of a digit, decimal or hexadecimal. -/
def digitValue (c : Char) : Option Nat :=
  let n := c.toNat
  if 48 ≤ n ∧ n ≤ 57 then some (n - 48)
  else if 65 ≤ n ∧ n ≤ 70 then some (n - 55)
  else if 97 ≤ n ∧ n ≤ 102 then some (n - 87)
  else none

/-- The digits of a number in the given base, most significant first, after the value `acc`. -/
def digits (base : Nat) : Nat → List Char → Option Nat
  | acc, [] => some acc
  | acc, c :: cs =>
    match digitValue c with
    | none => none
    | some v => if v < base then digits base (acc * base + v) cs else none

/-- `number ::= decimal | "0x" hexadecimal` (R68). -/
def parseNumber : List Char → Option Nat
  | [] => none
  | ['0', 'x'] => none
  | '0' :: 'x' :: cs => digits 16 0 cs
  | cs => digits 10 0 cs

/-- `addr ::= number`, 0..15 (R68). -/
def parseAddr (t : List Char) : Option Addr :=
  (parseNumber t).bind fun n => if n < 16 then some (BitVec.ofNat 4 n) else none

/-- `imm ::= "#" number`, with the sign of a negative number (R68), and the tokens after it. -/
def parseImm : List (List Char) → Option (Word × List (List Char))
  | ['#'] :: ['-'] :: t :: ts =>
    (parseNumber t).bind fun n => (immediate (-(n : Int))).map fun d => (d, ts)
  | ['#'] :: t :: ts => (parseNumber t).bind fun n => (immediate (n : Int)).map fun d => (d, ts)
  | _ => none

/-! ## Commands and lines -/

/-- The commands without an operand (R68). -/
def plainCommand (t : List Char) : Option Instr :=
  if t = "RESET".toList then some .reset
  else if t = "TICK".toList then some .tick
  else if t = "NOP".toList then some .nop
  else none

/-- The commands with an immediate, by the address they write (R68). -/
def writeCommand (t : List Char) : Option Addr :=
  if t = "WR_PINC".toList then some 0x0#4
  else if t = "WR_PMAX".toList then some 0x1#4
  else if t = "WR_GAIN".toList then some 0x2#4
  else if t = "WR_OFFS".toList then some 0x3#4
  else none

/-- The rest of a write to address `a`: its immediate. -/
def parseWrite (a : Addr) (ts : List (List Char)) : Option (Instr × List (List Char)) :=
  (parseImm ts).map fun r => (decodeWrite a r.1, r.2)

/-- `cmd` (R68), and the tokens after it. `WR @a, #d` names the write its address decodes to (R65). -/
def parseCmd : List (List Char) → Option (Instr × List (List Char))
  | ['W', 'R'] :: ['@'] :: t :: [','] :: ts => (parseAddr t).bind fun a => parseWrite a ts
  | t :: ts =>
    match plainCommand t with
    | some i => some (i, ts)
    | none => (writeCommand t).bind fun a => parseWrite a ts
  | [] => none

/-- The register names of R68, by address. -/
def regNames : List (List Char) :=
  ["PINC".toList, "PMAX".toList, "GAIN".toList, "OFFS".toList, "PHASE".toList, "SAMPLE1".toList, "SAMPLE2".toList,
   "SAMPLE3".toList, "DACLAST1".toList, "DACLAST2".toList, "DACLAST3".toList]

/-- `reg` (R68), alone to the end of the line. -/
def parseReg : List (List Char) → Option Addr
  | [t] => (regNames.findIdx? (· = t)).map (BitVec.ofNat 4)
  | [['@'], t] => parseAddr t
  | _ => none

/-- The end of a line: nothing, or `"," "RD" reg` (R68). -/
def parseRd : List (List Char) → Option (Option Addr)
  | [] => some none
  | [','] :: ['R', 'D'] :: ts => (parseReg ts).map some
  | _ => none

/-- A line from its commands, where R68 allows them: one command, or `TICK` with one write, in either order of the
text, since the words of a pair are put together by a bitwise or (R65). DEDUCED, safe (log 14). -/
def makeLine (cmds : List Instr) (rd : Option Addr) : Option Line :=
  let l : Line :=
    { cmds := (match cmds with
        | [i, .tick] => [.tick, i]
        | _ => cmds)
      rd := rd }
  if l.wellFormed then some l else none

/-- `line ::= cmd [ "||" cmd ] [ "," "RD" reg ]` (R68). -/
def parseTokens (ts : List (List Char)) : Option Line :=
  match parseCmd ts with
  | none => none
  | some (i, ['|', '|'] :: ts') =>
    match parseCmd ts' with
    | none => none
    | some (j, ts'') => (parseRd ts'').bind (makeLine [i, j])
  | some (i, ts') => (parseRd ts').bind (makeLine [i])

/-- One line of a listing: `TICK * n` stands for `n` lines `TICK`, any other line for itself (R68). `none` where the
text is no line of the notation. -/
def parseLine (text : String) : Option (List Line) :=
  match tokens [] text.toList with
  | [['T', 'I', 'C', 'K'], ['*'], t] =>
    (parseNumber t).map fun n => List.replicate n { cmds := [.tick], rd := none }
  | ts => (parseTokens ts).map fun l => [l]

end Sys2Proof.Machine
end

