-- ==== Sys2Proof/Machine/Translator.lean ====
section
/-!
DEFINITION. The host contract: the Parameter Translator's pseudo-operations and one pass of the Control Loop
(43_parameter_registers.md R120 to R124, 30_encoding.md R69). They are host software, outside the block; each expands
to register writes, one a cycle. Operands are exact rational numbers (log 8).
-/

namespace Sys2Proof.Machine

/-- `trunc(x)`: rounding toward zero to an integer (R120). -/
def truncRat (x : Rat) : Int := x.num.tdiv x.den

/-- The host's open parameter of 93_implementation_defined.md U2: whether the caller clamps the unit values; off by
default (log 9). -/
structure HostConfig where
  callerClamps : Bool := false
  deriving DecidableEq, Repr

/-- A unit value as the caller passes it on: as it is, or clamped to `lo..hi` where the caller clamps (U2). -/
def HostConfig.unitValue (h : HostConfig) (lo hi x : Rat) : Rat :=
  if h.callerClamps then max lo (min hi x) else x

/-- `SETFREQ desiredHz, maxHz, samplingHz` (R121): `WR_PMAX`, then `WR_PINC`. With `maxHz = 0` or `samplingHz = 0` no
word is defined (93_implementation_defined.md U8; log 10). -/
def setFreq (desiredHz maxHz samplingHz : Rat) : Option (List Instr) :=
  if maxHz = 0 ∨ samplingHz = 0 then none
  else some [.wrPmax (word (truncRat (maxHz * fullCircleUnits / samplingHz))),
             .wrPinc (word (truncRat (desiredHz / maxHz * halfCircleUnits)))]

/-- `SETGAIN unitGain` (R122); its expected range is 0 to 1. -/
def setGain (h : HostConfig) (unitGain : Rat) : List Instr :=
  [.wrGain (word (truncRat (h.unitValue 0 1 unitGain * fullScalePositive)))]

/-- `SETOFFS unitOffset` (R123); its expected range is -1 to 1. -/
def setOffs (h : HostConfig) (unitOffset : Rat) : List Instr :=
  [.wrOffs (word (truncRat (h.unitValue (-1) 1 unitOffset * fullScalePositive)))]

/-- The operator settings in human units, held by the host and no state of the block (R19, R124). -/
structure OperatorSettings where
  outputFrequencyHz : Rat
  maxOutputFrequencyHz : Rat
  samplingFrequencyHz : Rat
  gain : Rat
  offset : Rat
  deriving DecidableEq

/-- `CTRL_PASS` (R124): `SETFREQ`, `SETGAIN`, `SETOFFS` with the current settings. Each write is a cycle of its own;
any number of idle cycles and ticks may stand between them. -/
def ctrlPass (h : HostConfig) (o : OperatorSettings) : Option (List Instr) :=
  match setFreq o.outputFrequencyHz o.maxOutputFrequencyHz o.samplingFrequencyHz with
  | none => none
  | some fs => some (fs ++ setGain h o.gain ++ setOffs h o.offset)

/-- The frequency of each lane when ticks arrive at `samplingHz` with a constant step (R85, informative). -/
def laneFrequency (samplingHz : Rat) (step : Word) : Rat := samplingHz * sint step / fullCircleUnits

/-- The operands for which the document makes its promises (R120). -/
def operandsInRange (o : OperatorSettings) : Bool :=
  decide (0 ≤ o.outputFrequencyHz) && decide (o.outputFrequencyHz ≤ o.maxOutputFrequencyHz) &&
  decide (0 < o.maxOutputFrequencyHz) && decide (0 < o.samplingFrequencyHz) &&
  decide (o.maxOutputFrequencyHz ≤ o.samplingFrequencyHz / 2) &&
  decide (0 ≤ o.gain) && decide (o.gain ≤ 1) && decide (-1 ≤ o.offset) && decide (o.offset ≤ 1)

end Sys2Proof.Machine
end

