-- ==== Sys2Proof/Safety.lean ====
section
/-!
DEFINITION. The terms in which claims speak of good states and good environments: the invariant of 10_state.md R24,
the shape of the event history, the timer contract of 60_exceptions.md R151, and the in-spec ranges of the parameter
registers. The step assumes none of them.
-/

namespace Sys2Proof.Machine

/-- A word that is a code of the 12-bit DAC: bits 15:12 are zero (R24, R130). -/
def isDacCode (v : Word) : Bool := v.extractLsb' 12 4 == 0#4

/-- The invariant R24: every `DACLASTn` holds a DAC code. -/
def Regs.dacCodesFit (r : Regs) : Bool := isDacCode r.dacLast1 && isDacCode r.dacLast2 && isDacCode r.dacLast3

/-- The words on the DAC data pins are DAC codes (R24, R62). -/
def Pins.dacCodesFit (p : Pins) : Bool := isDacCode p.dac1 && isDacCode p.dac2 && isDacCode p.dac3

/-- The history is a sequence of complete ticks: `DacWrite` to channels 1, 2, 3 in this order, each a DAC code, then
`Ack` (R132, R134, R135). -/
def completeTicks : List Event → Bool
  | [] => true
  | .dacWrite .ch1 a :: .dacWrite .ch2 b :: .dacWrite .ch3 c :: .ack :: es =>
    isDacCode a && isDacCode b && isDacCode c && completeTicks es
  | _ => false

/-- The last word the history gives a channel, `none` where it has none. -/
def lastWritten (ch : Channel) : List Event → Option Word
  | [] => none
  | .dacWrite c v :: es => (lastWritten ch es).or (if c = ch then some v else none)
  | .ack :: es => lastWritten ch es

/-- The register of a channel (R18). -/
def Regs.dacLast (r : Regs) : Channel → Word
  | .ch1 => r.dacLast1
  | .ch2 => r.dacLast2
  | .ch3 => r.dacLast3

/-- The register of a lane (R17). -/
def Regs.sample (r : Regs) : Channel → Word
  | .ch1 => r.sample1
  | .ch2 => r.sample2
  | .ch3 => r.sample3

/-- A `DACLASTn` is what R18 says it is: the last word given to channel `n`, or 0 where no tick has come since the
last `RESET`. -/
def dacLastRecorded (s : State) (ch : Channel) : Bool :=
  s.regs.dacLast ch == 0 || lastWritten ch s.events == some (s.regs.dacLast ch)

/-- The invariant of the output side: R24 for registers and pins, a history of complete ticks, and R18. -/
def State.outputInv (s : State) : Bool :=
  s.regs.dacCodesFit && s.pins.dacCodesFit && completeTicks s.events &&
  dacLastRecorded s .ch1 && dacLastRecorded s .ch2 && dacLastRecorded s .ch3

/-- TIMER keeps its contract in the next cycle: it presents no tick while it awaits an acknowledge, and none while
`rst = 1` (R151, R171; 92_eei_decisions.md D31). -/
def timerContract (s : State) : Bool :=
  !cmdTick (nextInput s).command || (!s.timerAwaiting && !cmdRst (nextInput s).command)

/-- The fatal condition of R151 has not arisen: TIMER is not waiting for an acknowledge. -/
def timerLive (s : State) : Bool := !s.timerAwaiting

/-- The in-spec ranges of the four parameter registers (R12 to R15), for which the document's properties are
promised; the block computes with every other value too. -/
def Regs.inSpec (r : Regs) : Bool :=
  decide (0 ≤ sint r.pinc) && decide (uint r.pmax ≤ 32768) && decide (0 ≤ sint r.gain) && r.offs != 0x8000#16

end Sys2Proof.Machine
end

