-- ==== Sys2Proof/Certificates/Slice0/Obligations.lean ====
section
/-!
DEFINITION. The statements for the provers. Each docstring names the rules of spec/ it formalises. Where a statement
speaks of what the model adds to the spec's block (the list `inputs`, the event history as a list, TIMER's bit, the pins
kept in the state), it names the entry of the assumption log. Where a statement gives the whole next state of `exec`,
the fields it leaves as they were take in `inputs` and `timerAwaiting`: that an operation by itself never changes these
two is the model's (log 1, log 5), since the cycle around it consumes its input vector and notes TIMER's bit.
-/

open Sys2Proof Sys2Proof.Machine

/-! ## Encoding and decoding -/

/-- Decoding the encoding of a well-formed operation gives that operation and nothing else (R64, R65). -/
def Obligations.DecodeInvertsEncode : Prop :=
  ∀ i : Instr, i.wellFormed = true → decode (encode i) = [i]

/-- A line of the notation assembles to an input vector whose operations are its `RD` (address 0x0 where it has
none), then its commands in order: one command, or `TICK` and one write (R64, R65, R68). -/
def Obligations.LineAssemblesToItsOperations : Prop :=
  ∀ l : Line, l.wellFormed = true → cycleOps l.assemble = .rd (l.rd.getD 0) :: l.cmds

/-- R68: the reader of the notation gives back every line of the notation from its text; what it gives, from any text,
are well-formed lines, which assemble to the operations they name; and a few lines, with a pair, a read, a hexadecimal
and a negative immediate, a comment and the abbreviation `TICK * n`, read as the rule says. -/
def Obligations.ListingTextReadsAsItsLines : Prop :=
  (∀ l : Line, l.wellFormed = true → parseLine l.text = some [l]) ∧
  (∀ (text : String) (ls : List Line), parseLine text = some ls →
    ∀ l ∈ ls, l.wellFormed = true ∧ cycleOps l.assemble = .rd (l.rd.getD 0) :: l.cmds) ∧
  parseLine "TICK || WR_GAIN #0x666F, RD DACLAST3 ; a comment" =
    some [{ cmds := [.tick, .wrGain 0x666F#16], rd := some 0xA#4 }] ∧
  parseLine "WR_OFFS #-8192" = some [{ cmds := [.wrOffs 0xE000#16], rd := none }] ∧
  parseLine "WR @4, #0x1234" = some [{ cmds := [.wrIgn4 0x4#4 0x1234#16], rd := none }] ∧
  parseLine "TICK * 3" = some (List.replicate 3 { cmds := [.tick], rd := none }) ∧
  parseLine "TICK || NOP" = none ∧ parseLine "WR_PINC #65536" = none ∧ parseLine "WR @16, #0" = none

/-- R65: the rows of the table that accept a command word are exactly the operations it decodes to, for every command
word; and the canonical words are the numbers the rule gives. -/
def Obligations.DecodeAgreesWithOpcodeTable : Prop :=
  (∀ w : Command,
    let rows : List (String × Command × Command) :=
      [("RESET", 0x400000#23, 0x400000#23), ("TICK", 0x600000#23, 0x200000#23),
       ("WR_PINC", 0x5F0000#23, 0x100000#23), ("WR_PMAX", 0x5F0000#23, 0x110000#23),
       ("WR_GAIN", 0x5F0000#23, 0x120000#23), ("WR_OFFS", 0x5F0000#23, 0x130000#23),
       ("WR_IGN", 0x5C0000#23, 0x140000#23), ("WR_IGN", 0x5C0000#23, 0x180000#23),
       ("WR_IGN", 0x5C0000#23, 0x1C0000#23), ("NOP", 0x700000#23, 0x000000#23)]
    (rows.filter fun r => w &&& r.2.1 == r.2.2).map (·.1) = (decodeCommand w).map Instr.mnemonic) ∧
  (∀ r : ReadWord, decode (.read r) = [.rd r]) ∧
  encode .reset = .command 0x400000#23 ∧ encode .tick = .command 0x200000#23 ∧ encode .nop = .command 0#23 ∧
  (∀ d : Word,
    encode (.wrPinc d) = .command (0x100000#23 + d.setWidth 23) ∧
    encode (.wrPmax d) = .command (0x110000#23 + d.setWidth 23) ∧
    encode (.wrGain d) = .command (0x120000#23 + d.setWidth 23) ∧
    encode (.wrOffs d) = .command (0x130000#23 + d.setWidth 23) ∧
    commandOf .tick ||| commandOf (.wrGain d) = 0x320000#23 + d.setWidth 23)

/-- Every operation a command word decodes to is well formed, and the canonical word of a cycle's operations decodes to
the same operations: only don't-care bits are lost by re-encoding (R63, R65, R66). -/
def Obligations.DecodedOperationsReencode : Prop :=
  ∀ w : Command,
    (∀ i ∈ decodeCommand w, i.wellFormed = true) ∧ decodeCommand (encodeOps (decodeCommand w)) = decodeCommand w

/-- The don't-care fields of R63: with `RST = 1` every other bit, with `WE = 0` the bits 19:0. -/
def Obligations.DontCareBitsIgnored : Prop :=
  ∀ (t e t' e' : Bool) (a a' : Addr) (d d' : Word),
    decodeCommand (packCommand true t e a d) = decodeCommand (packCommand true t' e' a' d') ∧
    decodeCommand (packCommand false t false a d) = decodeCommand (packCommand false t false a' d')

/-- A few words of 95_test_vectors.md section 2.7, written out bit by bit from R60, decode to the operations they stand
for; and so do two table words through `decodeTableWord`, whose reading of a table word is the model's (log 11,
log 12). -/
def Obligations.SampleWordsDecode : Prop :=
  decodeCommand 0b00000000000000000000000#23 = [.nop] ∧
  decodeCommand 0b00011110001001000110100#23 = [.nop] ∧
  decodeCommand 0b00100000000110011001100#23 = [.wrPinc 0x0CCC#16] ∧
  decodeCommand 0b00100011111111111111111#23 = [.wrPmax 0xFFFF#16] ∧
  decodeCommand 0b00100101000000000000000#23 = [.wrGain 0x8000#16] ∧
  decodeCommand 0b00100111110000000000001#23 = [.wrOffs 0xE001#16] ∧
  decodeCommand 0b00101111011111011101111#23 = [.wrIgn4 0x7#4 0xBEEF#16] ∧
  decodeCommand 0b00110100000111111111111#23 = [.wrIgn8 0xA#4 0x0FFF#16] ∧
  decodeCommand 0b00111111011111011101111#23 = [.wrIgnC 0xF#4 0xBEEF#16] ∧
  decodeCommand 0b01000000000000000000000#23 = [.tick] ∧
  decodeCommand 0b01100100000000000000000#23 = [.tick, .wrGain 0x0000#16] ∧
  decodeCommand 0b11111111111111111111111#23 = [.reset] ∧
  decodeTableWord 8 0xB = some (.rd 0xB#4) ∧ decodeTableWord 24 0x101999 = some (.wrPinc 0x1999#16)

/-! ## One cycle -/

/-- R64: a cycle performs `RD`, then `RESET` alone, or `TICK` and then the write, or `NOP`, each from the state the one
before it left. The list `inputs` (log 1), the pins (log 4) and TIMER's bit (log 5) are the model's. -/
def Obligations.CyclePerformsOperationsInOrder : Prop :=
  ∀ (s : State) (w : Command) (r : ReadWord) (rest : List Input),
    let ops : List Instr :=
      .rd r ::
        (if w.getLsbD 22 then [.reset]
         else (if w.getLsbD 21 then [.tick] else []) ++
              (if w.getLsbD 20 then [decodeWrite (w.extractLsb' 16 4) (w.extractLsb' 0 16)] else []) ++
              (if !w.getLsbD 21 && !w.getLsbD 20 then [.nop] else []))
    let start : State :=
      { s with
        inputs := rest
        pins := { s.pins with
          tickAck := false, dacWe := false
          dac1 := s.regs.dacLast1, dac2 := s.regs.dacLast2, dac3 := s.regs.dacLast3 } }
    ∃ t : State, runOps ops start = .next t ∧
      step { s with inputs := { command := w, read := r } :: rest } =
        .next { t with timerAwaiting := if w.getLsbD 21 then !t.pins.tickAck else t.timerAwaiting }

/-- A step runs the decoded operation: when the next command word decodes to the one operation `i`, the step is `exec i`
after the cycle's `RD`, with TIMER's bit noted (log 5); when it decodes to two, one after the other; with an empty list
`inputs` the cycle is idle (log 1). `withFetchWord` presents its word in the very next cycle (log 2). -/
def Obligations.StepRunsDecodedOperation : Prop :=
  ∀ (s : State) (w : Command) (r : ReadWord) (rest : List Input),
    let start : State :=
      { s with
        inputs := rest
        pins := { tickAck := false, dacWe := false, dac1 := s.regs.dacLast1, dac2 := s.regs.dacLast2,
                  dac3 := s.regs.dacLast3, rdata := regRead s.regs r } }
    let noted : State → State := fun t =>
      { t with timerAwaiting := if w.getLsbD 21 then !t.pins.tickAck else t.timerAwaiting }
    (∀ (i : Instr) (t : State), decodeCommand w = [i] → exec i start = .next t →
      step { s with inputs := { command := w, read := r } :: rest } = .next (noted t)) ∧
    (∀ (i j : Instr) (t u : State), decodeCommand w = [i, j] → exec i start = .next t → exec j t = .next u →
      step { s with inputs := { command := w, read := r } :: rest } = .next (noted u)) ∧
    step { s with inputs := [] } = step { s with inputs := [{ command := 0, read := 0 }] } ∧
    s.withFetchWord 24 w.toNat = { s with inputs := { command := w, read := 0 } :: s.inputs } ∧
    s.withFetchWord 8 r.toNat = { s with inputs := { command := 0, read := r } :: s.inputs }

/-- R145: no operation raises an exception; every operation and every cycle ends in a next state, in every state. -/
def Obligations.NothingEverFails : Prop :=
  (∀ (i : Instr) (s : State), ∃ t : State, exec i s = .next t) ∧ (∀ s : State, ∃ t : State, step s = .next t)

/-- One cycle as one register transfer (R11, R46, R48, R64, R174): with `RST = 0` each parameter register takes `WDATA`
exactly when the write names it, and the datapath registers take what `TICK` computes from the registers before the
cycle exactly when `TICK = 1`; with `RST = 1` all eleven become 0. -/
def Obligations.CycleIsOneRegisterTransfer : Prop :=
  ∀ (s : State) (rst tk we : Bool) (a : Addr) (d : Word) (r : ReadWord) (rest : List Input),
    ∃ t u : State,
      step { s with inputs := { command := packCommand rst tk we a d, read := r } :: rest } = .next t ∧
      exec .tick s = .next u ∧ t.inputs = rest ∧
      t.regs =
        if rst then
          { pinc := 0, pmax := 0, gain := 0, offs := 0, phase := 0, sample1 := 0, sample2 := 0, sample3 := 0,
            dacLast1 := 0, dacLast2 := 0, dacLast3 := 0 }
        else
          { pinc := if we && a == 0x0#4 then d else s.regs.pinc
            pmax := if we && a == 0x1#4 then d else s.regs.pmax
            gain := if we && a == 0x2#4 then d else s.regs.gain
            offs := if we && a == 0x3#4 then d else s.regs.offs
            phase := if tk then u.regs.phase else s.regs.phase
            sample1 := if tk then u.regs.sample1 else s.regs.sample1
            sample2 := if tk then u.regs.sample2 else s.regs.sample2
            sample3 := if tk then u.regs.sample3 else s.regs.sample3
            dacLast1 := if tk then u.regs.dacLast1 else s.regs.dacLast1
            dacLast2 := if tk then u.regs.dacLast2 else s.regs.dacLast2
            dacLast3 := if tk then u.regs.dacLast3 else s.regs.dacLast3 }

/-- R62, R134: the output pins of every cycle, and the events it produces: `DacWrite` to channels 1, 2, 3 and then `Ack`
when `RST = 0` and `TICK = 1`, none otherwise; `rdata` is the register before the cycle. -/
def Obligations.OutputPinsAndEventsOfACycle : Prop :=
  ∀ (s : State) (rst tk we : Bool) (a : Addr) (d : Word) (r : ReadWord) (rest : List Input),
    let serviced : Bool := !rst && tk
    let code : Word → Word := fun v => (v ^^^ 0x8000#16) >>> 4
    ∃ t : State,
      step { s with inputs := { command := packCommand rst tk we a d, read := r } :: rest } = .next t ∧
      t.pins =
        { tickAck := serviced
          dacWe := serviced
          dac1 := if serviced then code s.regs.sample1 else s.regs.dacLast1
          dac2 := if serviced then code s.regs.sample2 else s.regs.dacLast2
          dac3 := if serviced then code s.regs.sample3 else s.regs.dacLast3
          rdata := regRead s.regs r } ∧
      t.events =
        s.events ++
          (if serviced then
            [.dacWrite .ch1 (code s.regs.sample1), .dacWrite .ch2 (code s.regs.sample2),
             .dacWrite .ch3 (code s.regs.sample3), .ack]
           else [])

/-- R19: the event history, TIMER's bit and the old pins are never read: two machines that agree on the registers and on
what is presented have the same registers and pins after a cycle and gain the same events. -/
def Obligations.ObserverStateNeverRead : Prop :=
  ∀ (g : Regs) (l : List Input) (p p' : Pins) (e e' : List Event) (b b' : Bool),
    ∃ (t t' : State) (new : List Event),
      step { regs := g, pins := p, events := e, timerAwaiting := b, inputs := l } = .next t ∧
      step { regs := g, pins := p', events := e', timerAwaiting := b', inputs := l } = .next t' ∧
      t.regs = t'.regs ∧ t.pins = t'.pins ∧ t.inputs = t'.inputs ∧ t.events = e ++ new ∧ t'.events = e' ++ new

/-! ## RESET -/

/-- R170: `RESET` sets the eleven registers to 0 and produces no event; `tick_ack` and `dac_we` are 0 and the DAC pins
show the old `DACLAST1..3` in its cycle. Every command word with bit 22 set is `RESET`, and a second `RESET` changes no
register. -/
def Obligations.ResetClearsEveryRegister : Prop :=
  (∀ s : State, exec .reset s = .next
    { s with
      regs := { pinc := 0, pmax := 0, gain := 0, offs := 0, phase := 0, sample1 := 0, sample2 := 0, sample3 := 0,
                dacLast1 := 0, dacLast2 := 0, dacLast3 := 0 }
      pins := { s.pins with
        tickAck := false, dacWe := false
        dac1 := s.regs.dacLast1, dac2 := s.regs.dacLast2, dac3 := s.regs.dacLast3 } }) ∧
  (∀ w : Command, w.getLsbD 22 = true → decodeCommand w = [.reset]) ∧
  (∀ s : State, ∃ t u : State, exec .reset s = .next t ∧ exec .reset t = .next u ∧ u.regs = t.regs ∧
    u.events = s.events)

/-- R23: every register is 0x0000 after reset, and the reset state is a fixed point of Advance: a `TICK` leaves the
generator registers zero and sets `DACLAST1..3` to 0x0800. -/
def Obligations.ResetStateIsAdvanceFixedPoint : Prop :=
  State.reset.regs =
    { pinc := 0x0000#16, pmax := 0x0000#16, gain := 0x0000#16, offs := 0x0000#16, phase := 0x0000#16,
      sample1 := 0x0000#16, sample2 := 0x0000#16, sample3 := 0x0000#16,
      dacLast1 := 0x0000#16, dacLast2 := 0x0000#16, dacLast3 := 0x0000#16 } ∧
  ∀ s : State, ∃ t u : State, exec .reset s = .next t ∧ t.regs = State.reset.regs ∧ exec .tick t = .next u ∧
    u.regs =
      { pinc := 0x0000#16, pmax := 0x0000#16, gain := 0x0000#16, offs := 0x0000#16, phase := 0x0000#16,
        sample1 := 0x0000#16, sample2 := 0x0000#16, sample3 := 0x0000#16,
        dacLast1 := 0x0800#16, dacLast2 := 0x0800#16, dacLast3 := 0x0800#16 }

/-- R171: reset wins over everything in its cycle: the tick is lost and not acknowledged, the write is lost, the read
answers from before; a tick presented then leaves TIMER waiting (R151; log 5). -/
def Obligations.ResetWinsItsCycle : Prop :=
  ∀ (s : State) (tk we : Bool) (a : Addr) (d : Word) (r : ReadWord) (rest : List Input),
    step { s with inputs := { command := packCommand true tk we a d, read := r } :: rest } = .next
      { regs := { pinc := 0, pmax := 0, gain := 0, offs := 0, phase := 0, sample1 := 0, sample2 := 0, sample3 := 0,
                  dacLast1 := 0, dacLast2 := 0, dacLast3 := 0 }
        pins := { tickAck := false, dacWe := false, dac1 := s.regs.dacLast1, dac2 := s.regs.dacLast2,
                  dac3 := s.regs.dacLast3, rdata := regRead s.regs r }
        events := s.events
        timerAwaiting := tk || s.timerAwaiting
        inputs := rest }

/-- R23, R172 and V1 of 95_test_vectors.md: while the gain, the offset and the three samples are 0, a cycle that does
not write `GAIN` or `OFFS` keeps them 0, and a tick it services emits 0x0800 on every channel; with `PINC` 0 or `PMAX` 0
a cycle without a write and without a reset leaves the phase where it is. From the reset state any number of ticks, at
least one, leaves the eight generator registers 0 and `DACLAST1..3` at 0x0800. -/
def Obligations.SilentUntilParametersArrive : Prop :=
  (∀ (s : State) (rst tk we : Bool) (a : Addr) (d : Word) (r : ReadWord) (rest : List Input),
    s.regs.gain = 0x0000#16 → s.regs.offs = 0x0000#16 →
    s.regs.sample1 = 0x0000#16 → s.regs.sample2 = 0x0000#16 → s.regs.sample3 = 0x0000#16 →
    rst = true ∨ we = false ∨ (a ≠ 0x2#4 ∧ a ≠ 0x3#4) →
    ∃ t : State, step { s with inputs := { command := packCommand rst tk we a d, read := r } :: rest } = .next t ∧
      t.regs.gain = 0x0000#16 ∧ t.regs.offs = 0x0000#16 ∧
      t.regs.sample1 = 0x0000#16 ∧ t.regs.sample2 = 0x0000#16 ∧ t.regs.sample3 = 0x0000#16 ∧
      (rst = false → tk = true →
        t.regs.dacLast1 = 0x0800#16 ∧ t.regs.dacLast2 = 0x0800#16 ∧ t.regs.dacLast3 = 0x0800#16 ∧
        t.events = s.events ++ [.dacWrite .ch1 0x0800#16, .dacWrite .ch2 0x0800#16, .dacWrite .ch3 0x0800#16, .ack]) ∧
      (rst = false → we = false → s.regs.pinc = 0x0000#16 ∨ s.regs.pmax = 0x0000#16 →
        t.regs.phase = s.regs.phase ∧ t.regs.pinc = s.regs.pinc ∧ t.regs.pmax = s.regs.pmax)) ∧
  ∀ (n : Nat) (s : State) (rest : List Input), ∃ r t : State, exec .reset s = .next r ∧
    Sys2Proof.core.run (n + 1)
      { r with inputs := List.replicate (n + 1) { command := 0x200000#23, read := 0 } ++ rest } = .next t ∧
    t.regs =
      { pinc := 0x0000#16, pmax := 0x0000#16, gain := 0x0000#16, offs := 0x0000#16, phase := 0x0000#16,
        sample1 := 0x0000#16, sample2 := 0x0000#16, sample3 := 0x0000#16,
        dacLast1 := 0x0800#16, dacLast2 := 0x0800#16, dacLast3 := 0x0800#16 } ∧
    t.inputs = rest

/-! ## Parameter registers, read and idle -/

/-- R110: `WR_PINC #d` stores `d` in `PINC` and changes nothing else; its canonical word decodes to it; beside a `TICK`
the tick uses the old value. -/
def Obligations.WritePincStoresItsWord : Prop :=
  ∀ (d : Word) (s : State),
    exec (.wrPinc d) s = .next { s with regs := { s.regs with pinc := d } } ∧
    decodeCommand (0x100000#23 + d.setWidth 23) = [.wrPinc d] ∧
    ∃ t : State, exec .tick s = .next t ∧
      runOps [.tick, .wrPinc d] s = .next { t with regs := { t.regs with pinc := d } }

/-- R111: `WR_PMAX #d`, likewise; with `d = 0` the step is 0 whatever `PINC` holds. -/
def Obligations.WritePmaxStoresItsWord : Prop :=
  (∀ (d : Word) (s : State),
    exec (.wrPmax d) s = .next { s with regs := { s.regs with pmax := d } } ∧
    decodeCommand (0x110000#23 + d.setWidth 23) = [.wrPmax d] ∧
    ∃ t : State, exec .tick s = .next t ∧
      runOps [.tick, .wrPmax d] s = .next { t with regs := { t.regs with pmax := d } }) ∧
  ∀ pinc : Word, phaseStep pinc 0x0000#16 = 0x0000#16

/-- R112: `WR_GAIN #d`, likewise; the samples keep their values. -/
def Obligations.WriteGainStoresItsWord : Prop :=
  ∀ (d : Word) (s : State),
    exec (.wrGain d) s = .next { s with regs := { s.regs with gain := d } } ∧
    decodeCommand (0x120000#23 + d.setWidth 23) = [.wrGain d] ∧
    ∃ t : State, exec .tick s = .next t ∧
      runOps [.tick, .wrGain d] s = .next { t with regs := { t.regs with gain := d } }

/-- R113: `WR_OFFS #d`, likewise. -/
def Obligations.WriteOffsStoresItsWord : Prop :=
  ∀ (d : Word) (s : State),
    exec (.wrOffs d) s = .next { s with regs := { s.regs with offs := d } } ∧
    decodeCommand (0x130000#23 + d.setWidth 23) = [.wrOffs d] ∧
    ∃ t : State, exec .tick s = .next t ∧
      runOps [.tick, .wrOffs d] s = .next { t with regs := { t.regs with offs := d } }

/-- R114: a write to 0x4..0xF (the three `WR_IGN` rows) changes nothing at all, its word
`0x100000 + a * 0x10000 + d` decodes to it, and beside a `TICK` the tick is performed normally. -/
def Obligations.IgnoredWritesChangeNothing : Prop :=
  ∀ (low : BitVec 2) (d : Word) (s : State),
    exec (.wrIgn4 (1#2 ++ low) d) s = .next s ∧
    exec (.wrIgn8 (2#2 ++ low) d) s = .next s ∧
    exec (.wrIgnC (3#2 ++ low) d) s = .next s ∧
    decodeCommand (0x140000#23 + (low.setWidth 23 <<< 16) + d.setWidth 23) = [.wrIgn4 (1#2 ++ low) d] ∧
    decodeCommand (0x180000#23 + (low.setWidth 23 <<< 16) + d.setWidth 23) = [.wrIgn8 (2#2 ++ low) d] ∧
    decodeCommand (0x1C0000#23 + (low.setWidth 23 <<< 16) + d.setWidth 23) = [.wrIgnC (3#2 ++ low) d] ∧
    runOps [.tick, .wrIgn4 (1#2 ++ low) d] s = exec .tick s ∧
    runOps [.tick, .wrIgn8 (2#2 ++ low) d] s = exec .tick s ∧
    runOps [.tick, .wrIgnC (3#2 ++ low) d] s = exec .tick s

/-- R116: `RD a` puts the register of address `a`, and 0x0000 for 0xB..0xF, on `rdata` and changes nothing else; in a
cycle it answers from before the tick, the write or the reset of that cycle. -/
def Obligations.ReadAnswersRegister : Prop :=
  (∀ (a : Addr) (s : State), exec (.rd a) s = .next
    { s with pins := { s.pins with
        rdata :=
          [s.regs.pinc, s.regs.pmax, s.regs.gain, s.regs.offs, s.regs.phase, s.regs.sample1, s.regs.sample2,
           s.regs.sample3, s.regs.dacLast1, s.regs.dacLast2, s.regs.dacLast3].getD a.toNat 0x0000#16 } }) ∧
  ∀ (s : State) (w : Command) (a : Addr) (rest : List Input), ∃ t u : State,
    step { s with inputs := { command := w, read := a } :: rest } = .next t ∧
    exec (.rd a) s = .next u ∧ t.pins.rdata = u.pins.rdata

/-- R117: `NOP` keeps every register, drives `tick_ack` and `dac_we` to 0 and repeats `DACLAST1..3`; and any number of
idle cycles, whatever their don't-care bits and read words, leaves registers and history alone. -/
def Obligations.IdleCyclesChangeNothing : Prop :=
  (∀ s : State, exec .nop s = .next
    { s with pins := { s.pins with
        tickAck := false, dacWe := false
        dac1 := s.regs.dacLast1, dac2 := s.regs.dacLast2, dac3 := s.regs.dacLast3 } }) ∧
  ∀ (idle : List (Addr × Word × ReadWord)) (s : State) (rest : List Input), ∃ t : State,
    Sys2Proof.core.run idle.length
      { s with
        inputs := idle.map (fun x => { command := packCommand false false false x.1 x.2.1, read := x.2.2 }) ++ rest } =
      .next t ∧
    t.regs = s.regs ∧ t.events = s.events ∧ t.inputs = rest

/-- R44: a written parameter reads back unchanged, whatever the word; writing it again changes nothing; and reading
twice gives the same word. -/
def Obligations.WritesReadBackAndAreIdempotent : Prop :=
  ∀ (a : Addr) (d : Word) (s : State), ∃ t : State,
    exec (decodeWrite a d) s = .next t ∧
    exec (decodeWrite a d) t = .next t ∧
    (a.toNat < 4 → ∃ u : State, exec (.rd a) t = .next u ∧ u.pins.rdata = d ∧ u.regs = t.regs) ∧
    ∃ u v : State, exec (.rd a) s = .next u ∧ exec (.rd a) u = .next v ∧ v = u ∧ u.regs = s.regs ∧
      u.events = s.events

/-- R160: the host role and the dispatcher role stay apart over whole runs: cycles without tick and reset never change
`PHASE`, `SAMPLE1..3`, `DACLAST1..3`, nor produce an event; cycles without write and reset never change the four
parameter registers. -/
def Obligations.RolesStaySeparate : Prop :=
  (∀ (host : List (Bool × Addr × Word × ReadWord)) (s : State) (rest : List Input), ∃ t : State,
    Sys2Proof.core.run host.length
      { s with
        inputs := host.map (fun x =>
          { command := packCommand false false x.1 x.2.1 x.2.2.1, read := x.2.2.2 }) ++ rest } = .next t ∧
    t.regs.phase = s.regs.phase ∧ t.regs.sample1 = s.regs.sample1 ∧ t.regs.sample2 = s.regs.sample2 ∧
    t.regs.sample3 = s.regs.sample3 ∧ t.regs.dacLast1 = s.regs.dacLast1 ∧ t.regs.dacLast2 = s.regs.dacLast2 ∧
    t.regs.dacLast3 = s.regs.dacLast3 ∧ t.events = s.events) ∧
  (∀ (ticks : List (Bool × Addr × Word × ReadWord)) (s : State) (rest : List Input), ∃ t : State,
    Sys2Proof.core.run ticks.length
      { s with
        inputs := ticks.map (fun x =>
          { command := packCommand false x.1 false x.2.1 x.2.2.1, read := x.2.2.2 }) ++ rest } = .next t ∧
    t.regs.pinc = s.regs.pinc ∧ t.regs.pmax = s.regs.pmax ∧ t.regs.gain = s.regs.gain ∧ t.regs.offs = s.regs.offs)

/-! ## The step and the phase -/

/-- R80: the product fits 32 bits signed, the step is its bits 30:15, and its value is the quotient rounded toward minus
infinity: the quotient itself for a non-negative `PINC`, 65536 more for a negative quotient. -/
def Obligations.StepIsProductBits30To15 : Prop :=
  ∀ pinc pmax : Word,
    let P : Int := pinc.toInt * (pmax.toNat : Int)
    P ≤ 2147385345 ∧ -2147450880 ≤ P ∧
    phaseStep pinc pmax = (BitVec.ofInt 32 P).extractLsb' 15 16 ∧
    (0 ≤ pinc.toInt → ((phaseStep pinc pmax).toNat : Int) = P / 32768 ∧ P / 32768 ≤ 65533) ∧
    (pinc.toInt < 0 ∧ pmax ≠ 0x0000#16 →
      ((phaseStep pinc pmax).toNat : Int) = 65536 + P / 32768 ∧ -65535 ≤ P / 32768 ∧ P / 32768 ≤ -1) ∧
    (pinc = 0x0000#16 ∨ pmax = 0x0000#16 → phaseStep pinc pmax = 0x0000#16)

/-- R81: the accumulation by fields: `FRAC` adds the step's low byte modulo 256, `INDEX` its high byte and the carry
modulo 256; as a whole it is the sum modulo 65536. -/
def Obligations.AccumulateByFields : Prop :=
  ∀ phase step : Word,
    let f : Nat := (phase.extractLsb' 0 8).toNat + (step.extractLsb' 0 8).toNat
    let carry : Nat := if 256 ≤ f then 1 else 0
    (accumulate phase step).toNat = (phase.toNat + step.toNat) % 65536 ∧
    ((accumulate phase step).extractLsb' 0 8).toNat = f % 256 ∧
    ((accumulate phase step).extractLsb' 8 8).toNat =
      ((phase.extractLsb' 8 8).toNat + (step.extractLsb' 8 8).toNat + carry) % 256

/-- R82: the ceiling: with `0 <= sint(PINC) <= 32767` the step is at most `uint(PMAX)` and below it unless `PMAX` is 0;
`PINC = 0x7FFF` gives one less than `PMAX` up to 32768, and two less above. -/
def Obligations.StepStaysBelowCeiling : Prop :=
  (∀ pinc pmax : Word, 0 ≤ pinc.toInt →
    (phaseStep pinc pmax).toNat ≤ pmax.toNat ∧
    (pmax ≠ 0x0000#16 → (phaseStep pinc pmax).toNat < pmax.toNat)) ∧
  (∀ pmax : Word, 1 ≤ pmax.toNat → pmax.toNat ≤ 32768 → (phaseStep 0x7FFF#16 pmax).toNat = pmax.toNat - 1) ∧
  (∀ pmax : Word, 32769 ≤ pmax.toNat → (phaseStep 0x7FFF#16 pmax).toNat = pmax.toNat - 2)

/-- R83: a negative `PINC` runs the phase backward: the accumulation subtracts the magnitude `m`, which is the floor of
`|sint(PINC)| * uint(PMAX) / 32768` or one more. -/
def Obligations.NegativeIncrementRunsBackward : Prop :=
  ∀ phase pinc pmax : Word, pinc.toInt < 0 →
    ∃ m : Int,
      (m = -pinc.toInt * pmax.toNat / 32768 ∨ m = -pinc.toInt * pmax.toNat / 32768 + 1) ∧
      ((accumulate phase (phaseStep pinc pmax)).toNat : Int) = ((phase.toNat : Int) - m) % 65536

/-- R84: with the parameters unchanged over `n` ticks the phase is `word(PHASE0 + n * step)`; it equals `PHASE0` exactly
when `n` is a multiple of `65536 / gcd(step, 65536)`; and from a state a tick has made, the samples return with it. -/
def Obligations.TicksArePeriodic : Prop :=
  ∀ (n : Nat) (s : State) (rest : List Input),
    let step : Nat := (phaseStep s.regs.pinc s.regs.pmax).toNat
    let period : Nat := 65536 / Nat.gcd step 65536
    ∃ s1 t : State, exec .tick s = .next s1 ∧
      Sys2Proof.core.run n { s1 with inputs := List.replicate n { command := 0x200000#23, read := 0 } ++ rest } =
        .next t ∧
      t.regs.phase = BitVec.ofNat 16 (s1.regs.phase.toNat + n * step) ∧
      (t.regs.phase = s1.regs.phase ↔ period ∣ n) ∧
      (period ∣ n → t.regs.sample1 = s1.regs.sample1 ∧ t.regs.sample2 = s1.regs.sample2 ∧
        t.regs.sample3 = s1.regs.sample3) ∧
      t.inputs = rest

/-! ## The sine -/

/-- R90, R91: the properties of the table: zeros, peak and trough, half-wave and quarter-wave symmetry, and the largest
difference of neighbours, 804. -/
def Obligations.SineTableSymmetries : Prop :=
  rom hardwareConfig 0 = 0 ∧ rom hardwareConfig 128 = 0 ∧ rom hardwareConfig 64 = 32767 ∧
  rom hardwareConfig 192 = -32767 ∧
  (∀ k : BitVec 8, -32767 ≤ rom hardwareConfig k ∧ rom hardwareConfig k ≤ 32767) ∧
  (∀ k : BitVec 8, rom hardwareConfig (k + 128) = -rom hardwareConfig k) ∧
  (∀ k : BitVec 8, rom hardwareConfig (128 - k) = rom hardwareConfig k) ∧
  (∀ k : BitVec 8, (rom hardwareConfig (k + 1) - rom hardwareConfig k).natAbs ≤ 804) ∧
  (rom hardwareConfig 1 - rom hardwareConfig 0).natAbs = 804

/-- R91: every entry of the table is `32767 * sin(2*pi*k/256)` rounded to the nearest integer, and none is a tie. -/
def Obligations.SineTableIsRoundedSine : Prop :=
  ∀ k : BitVec 8,
    |((rom hardwareConfig k : Int) : ℝ) - 32767 * Real.sin (2 * Real.pi * (k.toNat : ℝ) / 256)| < 1 / 2

/-- R92: the interpolated lookup: the blend of two neighbouring entries with the floor of the correction; exact where the
fraction is 0; between the two entries whatever the table; within -32767..32767 with the table of R91. -/
def Obligations.SineBlendsNeighbours : Prop :=
  (∀ (c : Config) (a : Word), c.interp = true →
    let y0 := rom c (a.extractLsb' 8 8)
    let y1 := rom c (a.extractLsb' 8 8 + 1)
    sine c a = y0 + Int.fdiv ((y1 - y0) * ((a.toNat % 256 : Nat) : Int)) 256 ∧
    (a.toNat % 256 = 0 → sine c a = y0) ∧
    min y0 y1 ≤ sine c a ∧ sine c a ≤ max y0 y1) ∧
  hardwareConfig.interp = true ∧
  (∀ a : Word, -32767 ≤ sine hardwareConfig a ∧ sine hardwareConfig a ≤ 32767)

/-- R93: without interpolation the lookup is the entry at `a[15:8]`, whatever the low byte. -/
def Obligations.SinePlainLookup : Prop :=
  ∀ (c : Config) (i f : BitVec 8), c.interp = false → sine c (i ++ f : BitVec (8 + 8)) = rom c i

/-- R92, with check V4 of 95_test_vectors.md: a half circle away the sine is the negative, exactly where the fraction is
0, and otherwise up to one unit lost to the floor. -/
def Obligations.SineHalfWaveAntisymmetry : Prop :=
  ∀ a : Word,
    let sum := sine hardwareConfig (a + 0x8000#16) + sine hardwareConfig a
    (sum = 0 ∨ sum = -1) ∧ (a.toNat % 256 = 0 → sum = 0)

/-! ## Lanes, gain and offset -/

/-- R100: the lanes' phases: lane 1 is the phase itself, and the separations modulo 65536 are 21845, 21845 and 21846. -/
def Obligations.LanesAreThirdsApart : Prop :=
  ∀ p : Word,
    lanePhase .ch1 p = p ∧
    (lanePhase .ch2 p).toNat = (p.toNat + 21845) % 65536 ∧
    (lanePhase .ch3 p).toNat = (p.toNat + 43690) % 65536 ∧
    (lanePhase .ch2 p - lanePhase .ch1 p).toNat = 21845 ∧
    (lanePhase .ch3 p - lanePhase .ch2 p).toNat = 21845 ∧
    (lanePhase .ch1 p - lanePhase .ch3 p).toNat = 21846

/-- R101: gain and offset: the bounds of the exact product's quotient, the wrapping sum, zero gain, unit gain and its
lost unit, the inverting gain, and when the sum does not wrap. -/
def Obligations.ScaleAppliesGainAndOffset : Prop :=
  (∀ (gain offs : Word) (y : Int), -32768 ≤ y → y ≤ 32767 →
    let q : Int := Int.fdiv (y * gain.toInt) 32768
    q ≤ 32768 ∧ -32767 ≤ q ∧ (q = 32768 ↔ y = -32768 ∧ gain = 0x8000#16) ∧
    ((scale gain offs y).toNat : Int) = (q + offs.toInt) % 65536 ∧
    ((scale gain offs y).toInt = q + offs.toInt ↔ -32768 ≤ q + offs.toInt ∧ q + offs.toInt ≤ 32767)) ∧
  (∀ (offs : Word) (y : Int), scale 0x0000#16 offs y = offs) ∧
  (∀ y : Int, 0 < y → y ≤ 32767 → (scale 0x7FFF#16 0x0000#16 y).toInt = y - 1) ∧
  (∀ y : Int, -32767 ≤ y → y ≤ 0 → (scale 0x7FFF#16 0x0000#16 y).toInt = y) ∧
  (∀ y : Int, -32767 ≤ y → y ≤ 32767 → (scale 0x8000#16 0x0000#16 y).toInt = -y)

/-! ## TICK -/

/-- R102, R132, R135: the whole effect of `TICK`: Emit sends the codes of the three samples, Advance steps the phase and
computes the next three from the new phase, and the tick is acknowledged; the parameter registers are unchanged. That the
operation by itself leaves the presented inputs and TIMER's bit unchanged is the model's (log 1, log 5): the cycle around
it notes the acknowledge in that bit. Every command word with `RST = 0` and `TICK = 1` performs it, first of its command's
operations, and a `TICK` right after a `TICK` is a second complete run. -/
def Obligations.TickEmitsThenAdvances : Prop :=
  (∀ s : State,
    let P : Int := s.regs.pinc.toInt * (s.regs.pmax.toNat : Int)
    let p : Word := BitVec.ofInt 16 ((s.regs.phase.toNat : Int) + P / 32768)
    let sample : Channel → Word := fun ch =>
      scale s.regs.gain s.regs.offs (sine hardwareConfig (lanePhase ch p))
    let code : Word → Word := fun v => (v ^^^ 0x8000#16) >>> 4
    exec .tick s = .next
      { s with
        regs := { s.regs with
          phase := p, sample1 := sample .ch1, sample2 := sample .ch2, sample3 := sample .ch3
          dacLast1 := code s.regs.sample1, dacLast2 := code s.regs.sample2, dacLast3 := code s.regs.sample3 }
        pins := { s.pins with
          tickAck := true, dacWe := true
          dac1 := code s.regs.sample1, dac2 := code s.regs.sample2, dac3 := code s.regs.sample3 }
        events := s.events ++
          [.dacWrite .ch1 (code s.regs.sample1), .dacWrite .ch2 (code s.regs.sample2),
           .dacWrite .ch3 (code s.regs.sample3), .ack] }) ∧
  decodeCommand 0x200000#23 = [.tick] ∧
  (∀ w : Command, w.getLsbD 22 = false → w.getLsbD 21 = true → (decodeCommand w).head? = some .tick) ∧
  ∀ s : State, ∃ t u : State, exec .tick s = .next t ∧ exec .tick t = .next u ∧ runOps [.tick, .tick] s = .next u

/-- R103: after a tick the three samples are a function of the new phase, the gain and the offset alone. -/
def Obligations.SamplesDependOnPhaseGainOffset : Prop :=
  ∃ f : Word → Word → Word → Word × Word × Word,
    ∀ s : State, ∃ t : State, exec .tick s = .next t ∧
      (t.regs.sample1, t.regs.sample2, t.regs.sample3) = f t.regs.phase s.regs.gain s.regs.offs

/-- R103 and T3 of 95_test_vectors.md: at zero frequency the phase stands still and every tick after the first writes the
same three samples; at phase 0 lane 1 is the offset, and with zero gain all three are. -/
def Obligations.ZeroFrequencyIsSteady : Prop :=
  ∀ s : State, s.regs.pinc = 0x0000#16 ∨ s.regs.pmax = 0x0000#16 →
    ∃ t u : State, exec .tick s = .next t ∧ exec .tick t = .next u ∧
      t.regs.phase = s.regs.phase ∧ u.regs.phase = s.regs.phase ∧
      u.regs.sample1 = t.regs.sample1 ∧ u.regs.sample2 = t.regs.sample2 ∧ u.regs.sample3 = t.regs.sample3 ∧
      (s.regs.phase = 0x0000#16 → t.regs.sample1 = s.regs.offs) ∧
      (s.regs.gain = 0x0000#16 → t.regs.sample1 = s.regs.offs ∧ t.regs.sample2 = s.regs.offs ∧
        t.regs.sample3 = s.regs.offs)

/-- R130: the mapping to the DAC's code, for every legal `DAC_BITS`, and its three forms for the hardware's 12 bits. -/
def Obligations.MapShiftsBiasedSample : Prop :=
  (∀ (c : Config) (v : Word), 1 ≤ c.dacBits → c.dacBits ≤ 16 →
    ((dacMap c v).toNat : Int) = (v.toInt + 32768) / 2 ^ (16 - c.dacBits) ∧ (dacMap c v).toNat < 2 ^ c.dacBits) ∧
  hardwareConfig.dacBits = 12 ∧
  (∀ v : Word,
    dacMap hardwareConfig v = (v ^^^ 0x8000#16) >>> 4 ∧
    (dacMap hardwareConfig v).extractLsb' 12 4 = 0#4 ∧
    ((dacMap hardwareConfig v).toNat : Int) = 2048 + Int.fdiv v.toInt 16)

/-- R131: the mapping is monotonic, and each code 0..4095 is the image of exactly sixteen consecutive sample values. -/
def Obligations.MapIsMonotonicSixteenToOne : Prop :=
  (∀ v w : Word, v.toInt ≤ w.toInt → (dacMap hardwareConfig v).toNat ≤ (dacMap hardwareConfig w).toNat) ∧
  (∀ (k : Nat) (v : Word), k < 4096 →
    ((dacMap hardwareConfig v).toNat = k ↔
      16 * (k : Int) - 32768 ≤ v.toInt ∧ v.toInt ≤ 16 * (k : Int) - 32768 + 15))

/-- R136: the output latency is one tick: what a tick emits are the codes of the samples the previous tick computed, from
the parameters as they were then, whatever writes, reads and idle operations stood between; and the first tick after a
reset emits 0x0800 on every channel, whatever the host wrote before it. -/
def Obligations.OutputLatencyIsOneTick : Prop :=
  (∀ (s : State) (ops : List Instr), (∀ i ∈ ops, i ≠ .reset ∧ i ≠ .tick) →
    let code : Channel → Word → Word := fun ch p =>
      (scale s.regs.gain s.regs.offs (sine hardwareConfig (lanePhase ch p)) ^^^ 0x8000#16) >>> 4
    ∃ t t' u : State, exec .tick s = .next t ∧ runOps ops t = .next t' ∧ exec .tick t' = .next u ∧
      u.events = t.events ++
        [.dacWrite .ch1 (code .ch1 t.regs.phase), .dacWrite .ch2 (code .ch2 t.regs.phase),
         .dacWrite .ch3 (code .ch3 t.regs.phase), .ack]) ∧
  (∀ (host : List (Bool × Addr × Word × ReadWord)) (s : State) (rest : List Input), ∃ r t : State,
    exec .reset s = .next r ∧
    Sys2Proof.core.run (host.length + 1)
      { r with
        inputs := host.map (fun x =>
            { command := packCommand false false x.1 x.2.1 x.2.2.1, read := x.2.2.2 }) ++
          { command := 0x200000#23, read := 0 } :: rest } = .next t ∧
    t.events = s.events ++
      [.dacWrite .ch1 0x0800#16, .dacWrite .ch2 0x0800#16, .dacWrite .ch3 0x0800#16, .ack])

/-- R174, R48: a write that shares its cycle with a tick lands after it: the tick computes with the old value. -/
def Obligations.WriteBesideTickLandsAfterIt : Prop :=
  ∀ (s : State) (a : Addr) (d : Word) (r : ReadWord) (rest : List Input),
    ∃ t u v : State,
      step { s with inputs := { command := packCommand false true true a d, read := r } :: rest } = .next t ∧
      exec .tick s = .next u ∧ exec (decodeWrite a d) u = .next v ∧ t.regs = v.regs ∧ t.events = u.events

/-! ## Invariants -/

/-- R24: the upper bits of `DACLAST1..3` are zero: every step keeps it, and the DAC pins carry codes then too. -/
def Obligations.DacCodesStayInRange : Prop :=
  ∀ s t : State, s.regs.dacCodesFit = true → step s = .next t →
    t.regs.dacCodesFit = true ∧ t.pins.dacCodesFit = true

/-- R24 holds after reset, also in its general form, for a DAC of any width. -/
def Obligations.ResetHasDacCodesInRange : Prop :=
  State.reset.regs.dacCodesFit = true ∧
  (∀ s : State, ∃ t : State, exec .reset s = .next t ∧ t.regs.dacCodesFit = true) ∧
  ∀ (c : Config) (ch : Channel),
    (State.reset.regs.dacLast ch).toNat < 2 ^ c.dacBits ∧
    ∀ s : State, ∃ t : State, execBuild c .reset s = .next t ∧ (t.regs.dacLast ch).toNat < 2 ^ c.dacBits

/-- The history stays a sequence of complete ticks of DAC codes (R132, R134, R135; V9), and each `DACLASTn` stays the
last word its channel was given, or 0 since a reset (R18, R23). The history as a list is the model's (log 3). -/
def Obligations.HistoryStaysCompleteTicks : Prop :=
  ∀ s t : State, s.outputInv = true → step s = .next t → t.outputInv = true

/-- The invariant of the output side holds at the model's reset state (log 3, log 4). -/
def Obligations.ResetMeetsOutputInvariant : Prop := State.reset.outputInv = true

/-- R151, in the model's monitor of TIMER (log 5): after a cycle TIMER awaits an acknowledge exactly when a tick was
presented under reset, or it awaited before and no tick was presented; so a TIMER that keeps its contract stays live,
and idle cycles, however many, leave the bit alone. -/
def Obligations.TimerWaitsOnlyAfterResetTick : Prop :=
  (∀ (s : State) (rst tk we : Bool) (a : Addr) (d : Word) (r : ReadWord) (rest : List Input), ∃ t : State,
    step { s with inputs := { command := packCommand rst tk we a d, read := r } :: rest } = .next t ∧
    (t.timerAwaiting = true ↔ (tk = true ∧ rst = true) ∨ (tk = false ∧ s.timerAwaiting = true))) ∧
  (∀ s t : State, timerLive s = true → timerContract s = true → step s = .next t → timerLive t = true) ∧
  ∀ (idle : List (Addr × Word × ReadWord)) (s : State) (rest : List Input), ∃ t : State,
    Sys2Proof.core.run idle.length
      { s with
        inputs := idle.map (fun x => { command := packCommand false false false x.1 x.2.1, read := x.2.2 }) ++ rest } =
      .next t ∧
    t.timerAwaiting = s.timerAwaiting

/-! ## Any build of the block -/

/-- R5: this hardware is the build with `INTERP = 1` and `DAC_BITS = 12`, a legal configuration; its operations are
`exec` and its cycle is `step`. That `exec` and `step` stand for this build is the model's (log 6). -/
def Obligations.HardwareBuildIsTheMachine : Prop :=
  hardwareConfig.interp = true ∧ hardwareConfig.dacBits = 12 ∧ hardwareConfig.wf = true ∧
  (∀ (i : Instr) (s : State), execBuild hardwareConfig i s = exec i s) ∧
  ∀ s : State, stepBuild hardwareConfig s = step s

/-- R5, R102, R130, R132, R135: on a block of any configuration every cycle completes, `TICK` has its whole effect with
that block's table, lookup and DAC width, and every other operation is that of this hardware. -/
def Obligations.EveryBuildTicksWithItsParameters : Prop :=
  ∀ (c : Config) (s : State),
    let P : Int := s.regs.pinc.toInt * (s.regs.pmax.toNat : Int)
    let p : Word := BitVec.ofInt 16 ((s.regs.phase.toNat : Int) + P / 32768)
    let sample : Channel → Word := fun ch => scale s.regs.gain s.regs.offs (sine c (lanePhase ch p))
    let code : Word → Word := fun v => BitVec.ofInt 16 ((v.toInt + 32768) / 2 ^ (16 - c.dacBits))
    execBuild c .tick s = .next
      { s with
        regs := { s.regs with
          phase := p, sample1 := sample .ch1, sample2 := sample .ch2, sample3 := sample .ch3
          dacLast1 := code s.regs.sample1, dacLast2 := code s.regs.sample2, dacLast3 := code s.regs.sample3 }
        pins := { s.pins with
          tickAck := true, dacWe := true
          dac1 := code s.regs.sample1, dac2 := code s.regs.sample2, dac3 := code s.regs.sample3 }
        events := s.events ++
          [.dacWrite .ch1 (code s.regs.sample1), .dacWrite .ch2 (code s.regs.sample2),
           .dacWrite .ch3 (code s.regs.sample3), .ack] } ∧
    (∀ i : Instr, i ≠ .tick → execBuild c i s = exec i s) ∧
    ∃ t : State, stepBuild c s = .next t

/-- R24 in general: on a block of any legal configuration every step keeps the bits 15:`DAC_BITS` of `DACLAST1..3` zero,
and the DAC pins carry such codes then too. -/
def Obligations.EveryBuildKeepsItsDacRange : Prop :=
  ∀ (c : Config) (s t : State), c.wf = true →
    (∀ ch : Channel, (s.regs.dacLast ch).toNat < 2 ^ c.dacBits) → stepBuild c s = .next t →
    (∀ ch : Channel, (t.regs.dacLast ch).toNat < 2 ^ c.dacBits) ∧
    t.pins.dac1.toNat < 2 ^ c.dacBits ∧ t.pins.dac2.toNat < 2 ^ c.dacBits ∧ t.pins.dac3.toNat < 2 ^ c.dacBits

/-- R5, R16, R19: two builds given the same inputs keep the same phase and parameters over a run of any length, whatever
their tables, lookups and DAC widths: the phase accumulates in the same way with and without interpolation. -/
def Obligations.BuildsShareTheirPhase : Prop :=
  ∀ (c c' : Config) (n : Nat) (s : State), ∃ t t' : State,
    (buildCore c).run n s = .next t ∧ (buildCore c').run n s = .next t' ∧
    t.regs.phase = t'.regs.phase ∧ t.regs.pinc = t'.regs.pinc ∧ t.regs.pmax = t'.regs.pmax ∧
    t.regs.gain = t'.regs.gain ∧ t.regs.offs = t'.regs.offs ∧ t.events.length = t'.events.length ∧
    t.inputs = t'.inputs

/-! ## The host's pseudo-operations -/

/-- R121: for in-range operands `SETFREQ` writes `PMAX` and then `PINC`, the two values of the document's formulas
truncated, in their in-spec ranges, and the resulting step stays at most `PMAX`. Rational operands are the model's
(log 8). -/
def Obligations.SetFreqWritesInRangeWords : Prop :=
  ∀ desiredHz maxHz samplingHz : Rat,
    0 ≤ desiredHz → desiredHz ≤ maxHz → 0 < maxHz → 0 < samplingHz → maxHz ≤ samplingHz / 2 →
    ∃ m p : Word,
      setFreq desiredHz maxHz samplingHz = some [.wrPmax m, .wrPinc p] ∧
      (m.toNat : Int) = ⌊maxHz * 65536 / samplingHz⌋ ∧ p.toInt = ⌊desiredHz / maxHz * 32767⌋ ∧
      m.toNat ≤ 32768 ∧ 0 ≤ p.toInt ∧ (phaseStep p m).toNat ≤ m.toNat ∧
      (desiredHz = 0 → p = 0x0000#16) ∧ (desiredHz = maxHz → p = 0x7FFF#16) ∧
      (maxHz = samplingHz / 2 → m = 0x8000#16)

/-- R122, R123: `SETGAIN` and `SETOFFS` in their expected ranges: one write each, of the unit value times 32767 truncated
toward zero. Rational operands are the model's (log 8), and no caller clamps (log 9). -/
def Obligations.SetGainAndSetOffsTruncate : Prop :=
  (∀ u : Rat, 0 ≤ u → u ≤ 1 → ∃ w : Word, setGain { callerClamps := false } u = [.wrGain w] ∧
    w.toInt = ⌊u * 32767⌋ ∧ 0 ≤ w.toInt) ∧
  (∀ u : Rat, 0 ≤ u → u ≤ 1 → ∃ w : Word, setOffs { callerClamps := false } u = [.wrOffs w] ∧
    w.toInt = ⌊u * 32767⌋ ∧ 0 ≤ w.toInt) ∧
  (∀ u : Rat, -1 ≤ u → u < 0 → ∃ w : Word, setOffs { callerClamps := false } u = [.wrOffs w] ∧
    w.toInt = ⌈u * 32767⌉ ∧ -32767 ≤ w.toInt)

/-- R120 to R123 for operands of any value: where the two divisors are not 0, the words written are the low 16 bits of the
formulas truncated toward zero (D28; rational operands are the model's, log 8); a caller that clamps brings the unit
values into their expected ranges first (U2, log 9); with `maxHz = 0` or `samplingHz = 0` no write is defined (U8,
log 10). -/
def Obligations.HostConversionsOfAnyOperands : Prop :=
  let trunc : Rat → Int := fun x => if 0 ≤ x then ⌊x⌋ else ⌈x⌉
  (∀ desiredHz maxHz samplingHz : Rat, maxHz ≠ 0 → samplingHz ≠ 0 → ∃ m p : Word,
    setFreq desiredHz maxHz samplingHz = some [.wrPmax m, .wrPinc p] ∧
    (m.toNat : Int) = trunc (maxHz * 65536 / samplingHz) % 65536 ∧
    (p.toNat : Int) = trunc (desiredHz / maxHz * 32767) % 65536) ∧
  (∀ u : Rat, ∃ g f : Word,
    setGain { callerClamps := false } u = [.wrGain g] ∧ setOffs { callerClamps := false } u = [.wrOffs f] ∧
    (g.toNat : Int) = trunc (u * 32767) % 65536 ∧ (f.toNat : Int) = trunc (u * 32767) % 65536) ∧
  (∀ u : Rat, ∃ g f : Word,
    setGain { callerClamps := true } u = [.wrGain g] ∧ setOffs { callerClamps := true } u = [.wrOffs f] ∧
    g.toInt = (if u < 0 then 0 else if 1 < u then 32767 else ⌊u * 32767⌋) ∧
    f.toInt = (if u < -1 then -32767 else if 1 < u then 32767 else trunc (u * 32767))) ∧
  (∀ desiredHz other : Rat, setFreq desiredHz 0 other = none ∧ setFreq desiredHz other 0 = none) ∧
  ∀ (h : HostConfig) (o : OperatorSettings),
    o.maxOutputFrequencyHz = 0 ∨ o.samplingFrequencyHz = 0 → ctrlPass h o = none

/-- R124: `CTRL_PASS` is `SETFREQ` of the three current frequencies, then `SETGAIN` of the current gain, then `SETOFFS` of
the current offset; where it exists it is the four writes `WR_PMAX`, `WR_PINC`, `WR_GAIN`, `WR_OFFS` in this order, and a
second pass with unchanged settings leaves the state exactly as it was. Rational operands are the model's (log 8). -/
def Obligations.ControlPassIsIdempotent : Prop :=
  ∀ (h : HostConfig) (o : OperatorSettings),
    ctrlPass h o =
      (setFreq o.outputFrequencyHz o.maxOutputFrequencyHz o.samplingFrequencyHz).map
        (fun freq => freq ++ setGain h o.gain ++ setOffs h o.offset) ∧
    ∀ ops : List Instr, ctrlPass h o = some ops →
      (∃ m p g f : Word, ops = [.wrPmax m, .wrPinc p, .wrGain g, .wrOffs f]) ∧
      ∀ s : State, ∃ t : State, runOps ops s = .next t ∧ runOps ops t = .next t
end

