-- ==== Sys2Proof/Laws/Arith.lean ====
section
/-!
SUPPORT. The readings of a word and the floor shift (00_scope.md R7) as integer facts that `omega` can use.
-/

namespace Sys2Proof.Machine

theorem uint_eq (v : Word) : uint v = (v.toNat : Int) := rfl

theorem uint_nonneg (v : Word) : 0 ≤ uint v := by simp [uint]

theorem uint_lt (v : Word) : uint v < 65536 := by
  have := v.isLt
  simp only [uint]
  omega

theorem sint_bounds (v : Word) : -32768 ≤ sint v ∧ sint v ≤ 32767 := by
  have h1 := BitVec.le_toInt v
  have h2 := BitVec.toInt_lt (x := v)
  simp only [sint]
  omega

/-- The two readings differ by 0 or by 65536 (R7). -/
theorem sint_eq_uint (v : Word) : sint v = if uint v < 32768 then uint v else uint v - 65536 := by
  have h := BitVec.toInt_eq_toNat_cond v
  unfold sint uint
  split_ifs at h ⊢ <;> omega

theorem uint_word (n : Int) : uint (word n) = n % 65536 := by
  simp only [uint, word, BitVec.toNat_ofInt]
  omega

theorem sint_word (n : Int) : sint (word n) = (n + 32768) % 65536 - 32768 := by
  rw [sint_eq_uint, uint_word]
  split <;> omega

/-- A value in the signed range survives `word` (R7). -/
theorem sint_word_of_range {n : Int} (h1 : -32768 ≤ n) (h2 : n ≤ 32767) : sint (word n) = n := by
  rw [sint_word]
  omega

theorem word_eq_iff (v : Word) (n : Int) : v = word n ↔ uint v = n % 65536 := by
  constructor
  · rintro rfl
    exact uint_word n
  · intro h
    apply BitVec.eq_of_toNat_eq
    have h2 := uint_word n
    simp only [uint] at h h2
    omega

theorem word_congr {m n : Int} (h : m % 65536 = n % 65536) : word m = word n := by
  rw [word_eq_iff, uint_word, h]

theorem floorShift_8 (x : Int) : floorShift x 8 = x / 256 := rfl

theorem floorShift_15 (x : Int) : floorShift x 15 = x / 32768 := rfl

end Sys2Proof.Machine
end

