-- ==== Sys2Proof/Laws/Decode.lean ====
section
/-!
SUPPORT. The fields of a packed command word, and what a write decodes to (30_encoding.md R60, R65).
-/

namespace Sys2Proof

/-- A bit of a packed command word, by the field it falls in. -/
theorem packCommand_getLsbD (r t w : Bool) (a : Addr) (d : Word) (i : Nat) :
    (packCommand r t w a d).getLsbD i =
      if i < 16 then d.getLsbD i else if i < 20 then a.getLsbD (i - 16)
      else if i = 20 then w else if i = 21 then t else if i = 22 then r else false := by
  show BitVec.getLsbD (BitVec.ofBool r ++ BitVec.ofBool t ++ BitVec.ofBool w ++ a ++ d : BitVec (1 + 1 + 1 + 4 + 16)) i
    = _
  simp only [BitVec.getLsbD_append, BitVec.getLsbD_ofBool]
  split_ifs <;> first | rfl | omega | (simp; omega)

@[simp] theorem cmdRst_pack (r t w : Bool) (a : Addr) (d : Word) : cmdRst (packCommand r t w a d) = r :=
  packCommand_getLsbD r t w a d 22

@[simp] theorem cmdTick_pack (r t w : Bool) (a : Addr) (d : Word) : cmdTick (packCommand r t w a d) = t :=
  packCommand_getLsbD r t w a d 21

@[simp] theorem cmdWe_pack (r t w : Bool) (a : Addr) (d : Word) : cmdWe (packCommand r t w a d) = w :=
  packCommand_getLsbD r t w a d 20

@[simp] theorem cmdAddr_pack (r t w : Bool) (a : Addr) (d : Word) : cmdAddr (packCommand r t w a d) = a := by
  apply BitVec.eq_of_getLsbD_eq
  intro i hi
  rw [cmdAddr, BitVec.getLsbD_extractLsb', packCommand_getLsbD]
  have h1 : ¬ 16 + i < 16 := by omega
  have h2 : 16 + i < 20 := by omega
  have h3 : 16 + i - 16 = i := by omega
  simp [h2, h3, hi]

@[simp] theorem cmdWdata_pack (r t w : Bool) (a : Addr) (d : Word) : cmdWdata (packCommand r t w a d) = d := by
  apply BitVec.eq_of_getLsbD_eq
  intro i hi
  rw [cmdWdata, BitVec.getLsbD_extractLsb', packCommand_getLsbD]
  simp [hi]

/-- What a write decodes to, by its address (R65). -/
theorem decodeWrite_cases (a : Addr) (d : Word) :
    (a = 0x0#4 ∧ decodeWrite a d = .wrPinc d) ∨ (a = 0x1#4 ∧ decodeWrite a d = .wrPmax d) ∨
    (a = 0x2#4 ∧ decodeWrite a d = .wrGain d) ∨ (a = 0x3#4 ∧ decodeWrite a d = .wrOffs d) ∨
    (a.extractLsb' 2 2 = 1#2 ∧ decodeWrite a d = .wrIgn4 a d) ∨
    (a.extractLsb' 2 2 = 2#2 ∧ decodeWrite a d = .wrIgn8 a d) ∨
    (a.extractLsb' 2 2 = 3#2 ∧ decodeWrite a d = .wrIgnC a d) := by
  have h : a = 0x0#4 ∨ a = 0x1#4 ∨ a = 0x2#4 ∨ a = 0x3#4 ∨ a = 0x4#4 ∨ a = 0x5#4 ∨ a = 0x6#4 ∨ a = 0x7#4 ∨
      a = 0x8#4 ∨ a = 0x9#4 ∨ a = 0xA#4 ∨ a = 0xB#4 ∨ a = 0xC#4 ∨ a = 0xD#4 ∨ a = 0xE#4 ∨ a = 0xF#4 := by
    revert a
    decide
  rcases h with rfl | rfl | rfl | rfl | rfl | rfl | rfl | rfl | rfl | rfl | rfl | rfl | rfl | rfl | rfl | rfl <;>
    simp [decodeWrite]

end Sys2Proof
end

