-- ==== Sys2Proof/Laws/State.lean ====
section
/-!
SUPPORT. The fields of a state after each named update of Machine/Ops.lean and Machine/Cycle.lean: one lemma per
field per update, so that no proof unfolds a record update.
-/

namespace Sys2Proof.Machine

/-! ### setPinc -/

@[simp] theorem State.setPinc_regs (s : State) (d : Word) : (s.setPinc d).regs = { s.regs with pinc := d } := rfl
@[simp] theorem State.setPinc_pins (s : State) (d : Word) : (s.setPinc d).pins = s.pins := rfl
@[simp] theorem State.setPinc_events (s : State) (d : Word) : (s.setPinc d).events = s.events := rfl
@[simp] theorem State.setPinc_timerAwaiting (s : State) (d : Word) : (s.setPinc d).timerAwaiting = s.timerAwaiting := rfl
@[simp] theorem State.setPinc_inputs (s : State) (d : Word) : (s.setPinc d).inputs = s.inputs := rfl

/-! ### setPmax -/

@[simp] theorem State.setPmax_regs (s : State) (d : Word) : (s.setPmax d).regs = { s.regs with pmax := d } := rfl
@[simp] theorem State.setPmax_pins (s : State) (d : Word) : (s.setPmax d).pins = s.pins := rfl
@[simp] theorem State.setPmax_events (s : State) (d : Word) : (s.setPmax d).events = s.events := rfl
@[simp] theorem State.setPmax_timerAwaiting (s : State) (d : Word) : (s.setPmax d).timerAwaiting = s.timerAwaiting := rfl
@[simp] theorem State.setPmax_inputs (s : State) (d : Word) : (s.setPmax d).inputs = s.inputs := rfl

/-! ### setGain -/

@[simp] theorem State.setGain_regs (s : State) (d : Word) : (s.setGain d).regs = { s.regs with gain := d } := rfl
@[simp] theorem State.setGain_pins (s : State) (d : Word) : (s.setGain d).pins = s.pins := rfl
@[simp] theorem State.setGain_events (s : State) (d : Word) : (s.setGain d).events = s.events := rfl
@[simp] theorem State.setGain_timerAwaiting (s : State) (d : Word) : (s.setGain d).timerAwaiting = s.timerAwaiting := rfl
@[simp] theorem State.setGain_inputs (s : State) (d : Word) : (s.setGain d).inputs = s.inputs := rfl

/-! ### setOffs -/

@[simp] theorem State.setOffs_regs (s : State) (d : Word) : (s.setOffs d).regs = { s.regs with offs := d } := rfl
@[simp] theorem State.setOffs_pins (s : State) (d : Word) : (s.setOffs d).pins = s.pins := rfl
@[simp] theorem State.setOffs_events (s : State) (d : Word) : (s.setOffs d).events = s.events := rfl
@[simp] theorem State.setOffs_timerAwaiting (s : State) (d : Word) : (s.setOffs d).timerAwaiting = s.timerAwaiting := rfl
@[simp] theorem State.setOffs_inputs (s : State) (d : Word) : (s.setOffs d).inputs = s.inputs := rfl

/-! ### setGenerator -/

@[simp] theorem State.setGenerator_regs (s : State) (p a b c : Word) : (s.setGenerator p a b c).regs =
    { s.regs with phase := p, sample1 := a, sample2 := b, sample3 := c } := rfl
@[simp] theorem State.setGenerator_pins (s : State) (p a b c : Word) : (s.setGenerator p a b c).pins = s.pins := rfl
@[simp] theorem State.setGenerator_events (s : State) (p a b c : Word) : (s.setGenerator p a b c).events = s.events := rfl
@[simp] theorem State.setGenerator_timerAwaiting (s : State) (p a b c : Word) : (s.setGenerator p a b c).timerAwaiting = s.timerAwaiting := rfl
@[simp] theorem State.setGenerator_inputs (s : State) (p a b c : Word) : (s.setGenerator p a b c).inputs = s.inputs := rfl

/-! ### latchDac -/

@[simp] theorem State.latchDac_regs (s : State) (a b c : Word) : (s.latchDac a b c).regs =
    { s.regs with dacLast1 := a, dacLast2 := b, dacLast3 := c } := rfl
@[simp] theorem State.latchDac_pins (s : State) (a b c : Word) : (s.latchDac a b c).pins = s.pins := rfl
@[simp] theorem State.latchDac_events (s : State) (a b c : Word) : (s.latchDac a b c).events = s.events := rfl
@[simp] theorem State.latchDac_timerAwaiting (s : State) (a b c : Word) : (s.latchDac a b c).timerAwaiting = s.timerAwaiting := rfl
@[simp] theorem State.latchDac_inputs (s : State) (a b c : Word) : (s.latchDac a b c).inputs = s.inputs := rfl

/-! ### clearRegs -/

@[simp] theorem State.clearRegs_regs (s : State) : s.clearRegs.regs = Regs.reset := rfl
@[simp] theorem State.clearRegs_pins (s : State) : s.clearRegs.pins = s.pins := rfl
@[simp] theorem State.clearRegs_events (s : State) : s.clearRegs.events = s.events := rfl
@[simp] theorem State.clearRegs_timerAwaiting (s : State) : s.clearRegs.timerAwaiting = s.timerAwaiting := rfl
@[simp] theorem State.clearRegs_inputs (s : State) : s.clearRegs.inputs = s.inputs := rfl

/-! ### recordEvent -/

@[simp] theorem State.recordEvent_regs (s : State) (e : Event) : (s.recordEvent e).regs = s.regs := rfl
@[simp] theorem State.recordEvent_pins (s : State) (e : Event) : (s.recordEvent e).pins = s.pins := rfl
@[simp] theorem State.recordEvent_events (s : State) (e : Event) : (s.recordEvent e).events = s.events ++ [e] := rfl
@[simp] theorem State.recordEvent_timerAwaiting (s : State) (e : Event) : (s.recordEvent e).timerAwaiting = s.timerAwaiting := rfl
@[simp] theorem State.recordEvent_inputs (s : State) (e : Event) : (s.recordEvent e).inputs = s.inputs := rfl

/-! ### driveAck -/

@[simp] theorem State.driveAck_regs (s : State) : s.driveAck.regs = s.regs := rfl
@[simp] theorem State.driveAck_pins (s : State) : s.driveAck.pins = { s.pins with tickAck := true } := rfl
@[simp] theorem State.driveAck_events (s : State) : s.driveAck.events = s.events := rfl
@[simp] theorem State.driveAck_timerAwaiting (s : State) : s.driveAck.timerAwaiting = s.timerAwaiting := rfl
@[simp] theorem State.driveAck_inputs (s : State) : s.driveAck.inputs = s.inputs := rfl

/-! ### driveRdata -/

@[simp] theorem State.driveRdata_regs (s : State) (v : Word) : (s.driveRdata v).regs = s.regs := rfl
@[simp] theorem State.driveRdata_pins (s : State) (v : Word) : (s.driveRdata v).pins = { s.pins with rdata := v } := rfl
@[simp] theorem State.driveRdata_events (s : State) (v : Word) : (s.driveRdata v).events = s.events := rfl
@[simp] theorem State.driveRdata_timerAwaiting (s : State) (v : Word) : (s.driveRdata v).timerAwaiting = s.timerAwaiting := rfl
@[simp] theorem State.driveRdata_inputs (s : State) (v : Word) : (s.driveRdata v).inputs = s.inputs := rfl

/-! ### holdPins -/

@[simp] theorem State.holdPins_regs (s : State) : s.holdPins.regs = s.regs := rfl
@[simp] theorem State.holdPins_pins (s : State) : s.holdPins.pins =
    { s.pins with tickAck := false, dacWe := false, dac1 := s.regs.dacLast1, dac2 := s.regs.dacLast2, dac3 := s.regs.dacLast3 } := rfl
@[simp] theorem State.holdPins_events (s : State) : s.holdPins.events = s.events := rfl
@[simp] theorem State.holdPins_timerAwaiting (s : State) : s.holdPins.timerAwaiting = s.timerAwaiting := rfl
@[simp] theorem State.holdPins_inputs (s : State) : s.holdPins.inputs = s.inputs := rfl

/-! ### setInputs -/

@[simp] theorem State.setInputs_regs (s : State) (l : List Input) : (s.setInputs l).regs = s.regs := rfl
@[simp] theorem State.setInputs_pins (s : State) (l : List Input) : (s.setInputs l).pins = s.pins := rfl
@[simp] theorem State.setInputs_events (s : State) (l : List Input) : (s.setInputs l).events = s.events := rfl
@[simp] theorem State.setInputs_timerAwaiting (s : State) (l : List Input) : (s.setInputs l).timerAwaiting = s.timerAwaiting := rfl
@[simp] theorem State.setInputs_inputs (s : State) (l : List Input) : (s.setInputs l).inputs = l := rfl

/-! ### setTimerAwaiting -/

@[simp] theorem State.setTimerAwaiting_regs (s : State) (b : Bool) : (s.setTimerAwaiting b).regs = s.regs := rfl
@[simp] theorem State.setTimerAwaiting_pins (s : State) (b : Bool) : (s.setTimerAwaiting b).pins = s.pins := rfl
@[simp] theorem State.setTimerAwaiting_events (s : State) (b : Bool) : (s.setTimerAwaiting b).events = s.events := rfl
@[simp] theorem State.setTimerAwaiting_timerAwaiting (s : State) (b : Bool) : (s.setTimerAwaiting b).timerAwaiting = b := rfl
@[simp] theorem State.setTimerAwaiting_inputs (s : State) (b : Bool) : (s.setTimerAwaiting b).inputs = s.inputs := rfl

/-! ### driveDac -/

@[simp] theorem State.driveDac_ch1_pins (s : State) (v : Word) :
    (s.driveDac .ch1 v).pins = { s.pins with dacWe := true, dac1 := v } := rfl
@[simp] theorem State.driveDac_ch2_pins (s : State) (v : Word) :
    (s.driveDac .ch2 v).pins = { s.pins with dacWe := true, dac2 := v } := rfl
@[simp] theorem State.driveDac_ch3_pins (s : State) (v : Word) :
    (s.driveDac .ch3 v).pins = { s.pins with dacWe := true, dac3 := v } := rfl
@[simp] theorem State.driveDac_regs (s : State) (ch : Channel) (v : Word) : (s.driveDac ch v).regs = s.regs := by
  cases ch <;> rfl
@[simp] theorem State.driveDac_events (s : State) (ch : Channel) (v : Word) : (s.driveDac ch v).events = s.events := by
  cases ch <;> rfl
@[simp] theorem State.driveDac_timerAwaiting (s : State) (ch : Channel) (v : Word) : (s.driveDac ch v).timerAwaiting = s.timerAwaiting := by
  cases ch <;> rfl
@[simp] theorem State.driveDac_inputs (s : State) (ch : Channel) (v : Word) : (s.driveDac ch v).inputs = s.inputs := by
  cases ch <;> rfl

/-! ### dacWrite and ack (R8) -/

@[simp] theorem State.dacWrite_regs (s : State) (ch : Channel) (v : Word) : (s.dacWrite ch v).regs = s.regs := by
  simp [State.dacWrite]
@[simp] theorem State.dacWrite_events (s : State) (ch : Channel) (v : Word) :
    (s.dacWrite ch v).events = s.events ++ [.dacWrite ch v] := by simp [State.dacWrite]
@[simp] theorem State.dacWrite_timerAwaiting (s : State) (ch : Channel) (v : Word) :
    (s.dacWrite ch v).timerAwaiting = s.timerAwaiting := by simp [State.dacWrite]
@[simp] theorem State.dacWrite_inputs (s : State) (ch : Channel) (v : Word) :
    (s.dacWrite ch v).inputs = s.inputs := by simp [State.dacWrite]
@[simp] theorem State.dacWrite_ch1_pins (s : State) (v : Word) :
    (s.dacWrite .ch1 v).pins = { s.pins with dacWe := true, dac1 := v } := rfl
@[simp] theorem State.dacWrite_ch2_pins (s : State) (v : Word) :
    (s.dacWrite .ch2 v).pins = { s.pins with dacWe := true, dac2 := v } := rfl
@[simp] theorem State.dacWrite_ch3_pins (s : State) (v : Word) :
    (s.dacWrite .ch3 v).pins = { s.pins with dacWe := true, dac3 := v } := rfl
@[simp] theorem State.ack_regs (s : State) : s.ack.regs = s.regs := rfl
@[simp] theorem State.ack_pins (s : State) : s.ack.pins = { s.pins with tickAck := true } := rfl
@[simp] theorem State.ack_events (s : State) : s.ack.events = s.events ++ [.ack] := rfl
@[simp] theorem State.ack_timerAwaiting (s : State) : s.ack.timerAwaiting = s.timerAwaiting := rfl
@[simp] theorem State.ack_inputs (s : State) : s.ack.inputs = s.inputs := rfl

/-! ### beginCycle and noteTimer -/

@[simp] theorem beginCycle_regs (s : State) : (beginCycle s).regs = s.regs := rfl
@[simp] theorem beginCycle_pins (s : State) : (beginCycle s).pins = s.holdPins.pins := rfl
@[simp] theorem beginCycle_events (s : State) : (beginCycle s).events = s.events := rfl
@[simp] theorem beginCycle_timerAwaiting (s : State) : (beginCycle s).timerAwaiting = s.timerAwaiting := rfl
@[simp] theorem beginCycle_inputs (s : State) : (beginCycle s).inputs = s.inputs.tail := rfl
@[simp] theorem noteTimer_regs (i : Input) (s : State) : (noteTimer i s).regs = s.regs := rfl
@[simp] theorem noteTimer_pins (i : Input) (s : State) : (noteTimer i s).pins = s.pins := rfl
@[simp] theorem noteTimer_events (i : Input) (s : State) : (noteTimer i s).events = s.events := rfl
@[simp] theorem noteTimer_timerAwaiting (i : Input) (s : State) :
    (noteTimer i s).timerAwaiting = if cmdTick i.command then !s.pins.tickAck else s.timerAwaiting := rfl
@[simp] theorem noteTimer_inputs (i : Input) (s : State) : (noteTimer i s).inputs = s.inputs := rfl

end Sys2Proof.Machine
end

