-- ==== Sys2Proof/Laws/Ops.lean ====
section
/-!
SUPPORT. For each shared operation, what it does, once: the register space, `EMIT`, `ADVANCE`, and the body of `TICK`.
-/

namespace Sys2Proof.Machine

/-! ## The register space (R41) -/

theorem regRead_param (r : Regs) :
    regRead r 0x0#4 = r.pinc ∧ regRead r 0x1#4 = r.pmax ∧ regRead r 0x2#4 = r.gain ∧ regRead r 0x3#4 = r.offs :=
  ⟨rfl, rfl, rfl, rfl⟩

theorem regRead_datapath (r : Regs) :
    regRead r 0x4#4 = r.phase ∧ regRead r 0x5#4 = r.sample1 ∧ regRead r 0x6#4 = r.sample2 ∧
      regRead r 0x7#4 = r.sample3 ∧ regRead r 0x8#4 = r.dacLast1 ∧ regRead r 0x9#4 = r.dacLast2 ∧
      regRead r 0xA#4 = r.dacLast3 :=
  ⟨rfl, rfl, rfl, rfl, rfl, rfl, rfl⟩

theorem regRead_reserved (r : Regs) (a : Addr) (h : 0xB ≤ a.toNat) : regRead r a = 0 := by
  unfold regRead
  split <;> first | rfl | omega

@[simp] theorem regWrite_pinc (s : State) (d : Word) : s.regWrite 0x0#4 d = s.setPinc d := rfl
@[simp] theorem regWrite_pmax (s : State) (d : Word) : s.regWrite 0x1#4 d = s.setPmax d := rfl
@[simp] theorem regWrite_gain (s : State) (d : Word) : s.regWrite 0x2#4 d = s.setGain d := rfl
@[simp] theorem regWrite_offs (s : State) (d : Word) : s.regWrite 0x3#4 d = s.setOffs d := rfl

/-- A write outside the four parameter registers changes nothing (R11, R114). -/
theorem regWrite_ignored (s : State) (a : Addr) (d : Word) (h : 4 ≤ a.toNat) : s.regWrite a d = s := by
  unfold State.regWrite
  split <;> first | rfl | omega

/-- What a write can be, by its address. -/
theorem regWrite_cases (s : State) (a : Addr) (d : Word) :
    (a = 0x0#4 ∧ s.regWrite a d = s.setPinc d) ∨ (a = 0x1#4 ∧ s.regWrite a d = s.setPmax d) ∨
    (a = 0x2#4 ∧ s.regWrite a d = s.setGain d) ∨ (a = 0x3#4 ∧ s.regWrite a d = s.setOffs d) ∨
    (4 ≤ a.toNat ∧ s.regWrite a d = s) := by
  by_cases h : 4 ≤ a.toNat
  · exact .inr (.inr (.inr (.inr ⟨h, regWrite_ignored s a d h⟩)))
  · have h4 : a = 0x0#4 ∨ a = 0x1#4 ∨ a = 0x2#4 ∨ a = 0x3#4 := by bv_omega
    rcases h4 with rfl | rfl | rfl | rfl <;> simp

/-- A write touches the registers only. -/
theorem regWrite_frame (s : State) (a : Addr) (d : Word) :
    (s.regWrite a d).pins = s.pins ∧ (s.regWrite a d).events = s.events ∧
      (s.regWrite a d).timerAwaiting = s.timerAwaiting ∧ (s.regWrite a d).inputs = s.inputs := by
  rcases regWrite_cases s a d with ⟨-, h⟩ | ⟨-, h⟩ | ⟨-, h⟩ | ⟨-, h⟩ | ⟨-, h⟩ <;> simp [h]

/-- A write leaves every register of the datapath alone (R11, R160). -/
theorem regWrite_datapath (s : State) (a : Addr) (d : Word) :
    (s.regWrite a d).regs.phase = s.regs.phase ∧ (s.regWrite a d).regs.sample1 = s.regs.sample1 ∧
      (s.regWrite a d).regs.sample2 = s.regs.sample2 ∧ (s.regWrite a d).regs.sample3 = s.regs.sample3 ∧
      (s.regWrite a d).regs.dacLast1 = s.regs.dacLast1 ∧ (s.regWrite a d).regs.dacLast2 = s.regs.dacLast2 ∧
      (s.regWrite a d).regs.dacLast3 = s.regs.dacLast3 := by
  rcases regWrite_cases s a d with ⟨-, h⟩ | ⟨-, h⟩ | ⟨-, h⟩ | ⟨-, h⟩ | ⟨-, h⟩ <;> simp [h]

/-! ## EMIT (R132) -/

@[simp] theorem emit_regs (c : Config) (s : State) :
    (emit c s).regs =
      { s.regs with
        dacLast1 := dacMap c s.regs.sample1
        dacLast2 := dacMap c s.regs.sample2
        dacLast3 := dacMap c s.regs.sample3 } := by
  simp [emit]

@[simp] theorem emit_events (c : Config) (s : State) :
    (emit c s).events =
      s.events ++ [.dacWrite .ch1 (dacMap c s.regs.sample1), .dacWrite .ch2 (dacMap c s.regs.sample2),
        .dacWrite .ch3 (dacMap c s.regs.sample3)] := by
  simp [emit]

@[simp] theorem emit_pins (c : Config) (s : State) :
    (emit c s).pins =
      { s.pins with
        dacWe := true
        dac1 := dacMap c s.regs.sample1
        dac2 := dacMap c s.regs.sample2
        dac3 := dacMap c s.regs.sample3 } := by
  simp [emit]

@[simp] theorem emit_timerAwaiting (c : Config) (s : State) : (emit c s).timerAwaiting = s.timerAwaiting := by
  simp [emit]

@[simp] theorem emit_inputs (c : Config) (s : State) : (emit c s).inputs = s.inputs := by
  simp [emit]

/-! ## ADVANCE (R102) -/

@[simp] theorem advance_regs (c : Config) (s : State) :
    (advance c s).regs =
      { s.regs with
        phase := nextPhase s.regs
        sample1 := laneSample c s.regs.gain s.regs.offs .ch1 (nextPhase s.regs)
        sample2 := laneSample c s.regs.gain s.regs.offs .ch2 (nextPhase s.regs)
        sample3 := laneSample c s.regs.gain s.regs.offs .ch3 (nextPhase s.regs) } := rfl

@[simp] theorem advance_pins (c : Config) (s : State) : (advance c s).pins = s.pins := rfl
@[simp] theorem advance_events (c : Config) (s : State) : (advance c s).events = s.events := rfl
@[simp] theorem advance_timerAwaiting (c : Config) (s : State) :
    (advance c s).timerAwaiting = s.timerAwaiting := rfl
@[simp] theorem advance_inputs (c : Config) (s : State) : (advance c s).inputs = s.inputs := rfl

/-! ## The body of TICK (R135) -/

@[simp] theorem dispatchSamples_regs (c : Config) (s : State) :
    (dispatchSamples c s).regs =
      { s.regs with
        phase := nextPhase s.regs
        sample1 := laneSample c s.regs.gain s.regs.offs .ch1 (nextPhase s.regs)
        sample2 := laneSample c s.regs.gain s.regs.offs .ch2 (nextPhase s.regs)
        sample3 := laneSample c s.regs.gain s.regs.offs .ch3 (nextPhase s.regs)
        dacLast1 := dacMap c s.regs.sample1
        dacLast2 := dacMap c s.regs.sample2
        dacLast3 := dacMap c s.regs.sample3 } := by
  simp [dispatchSamples, nextPhase]

@[simp] theorem dispatchSamples_pins (c : Config) (s : State) :
    (dispatchSamples c s).pins =
      { s.pins with
        tickAck := true
        dacWe := true
        dac1 := dacMap c s.regs.sample1
        dac2 := dacMap c s.regs.sample2
        dac3 := dacMap c s.regs.sample3 } := by
  simp [dispatchSamples]

@[simp] theorem dispatchSamples_events (c : Config) (s : State) :
    (dispatchSamples c s).events =
      s.events ++ [.dacWrite .ch1 (dacMap c s.regs.sample1), .dacWrite .ch2 (dacMap c s.regs.sample2),
        .dacWrite .ch3 (dacMap c s.regs.sample3), .ack] := by
  simp [dispatchSamples]

@[simp] theorem dispatchSamples_timerAwaiting (c : Config) (s : State) :
    (dispatchSamples c s).timerAwaiting = s.timerAwaiting := by
  simp [dispatchSamples]

@[simp] theorem dispatchSamples_inputs (c : Config) (s : State) :
    (dispatchSamples c s).inputs = s.inputs := by
  simp [dispatchSamples]

/-! ## The hardware's parameters (R5) -/

theorem dacMap_hardware (v : Word) : dacMap hardwareConfig v = word ((sint v + 32768) / 16) := rfl

theorem sine_interpolated (c : Config) (h : c.interp = true) (a : Word) :
    sine c a = rom c (phaseIndex a) +
      (rom c (phaseIndex a + 1) - rom c (phaseIndex a)) * ((phaseFrac a).toNat : Int) / 256 := by
  simp [sine, h, floorShift_8]

end Sys2Proof.Machine
end

