-- ==== Sys2Proof/Laws/Cycle.lean ====
section
/-!
SUPPORT. What one operation, a list of operations, a cycle and a step can do: the inversion lemmas that later proofs
cite.
-/

namespace Sys2Proof.Machine

@[simp] theorem runOpsWith_nil (ex : Executor) (s : State) : runOpsWith ex [] s = .next s := rfl
@[simp] theorem runOps_nil (s : State) : runOps [] s = .next s := rfl

/-- A list of operations that ends in a next state: the first operation gave a state, and the rest ran from it. -/
theorem runOpsWith_cons_next (ex : Executor) (i : Instr) (is : List Instr) (s t : State) :
    runOpsWith ex (i :: is) s = .next t ↔ ∃ u, ex i s = .next u ∧ runOpsWith ex is u = .next t := by
  constructor
  · intro h
    rw [runOpsWith] at h
    split at h
    · next u hu => exact ⟨u, hu, h⟩
    · cases h
    · cases h
  · rintro ⟨u, hu, h⟩
    rw [runOpsWith, hu]
    exact h

theorem runOps_cons_next (i : Instr) (is : List Instr) (s t : State) :
    runOps (i :: is) s = .next t ↔ ∃ u, exec i s = .next u ∧ runOps is u = .next t :=
  runOpsWith_cons_next exec i is s t

/-- A cycle that ends in a next state is the cycle's operations from the cycle's start, then TIMER's bit. -/
theorem runCycleWith_next (ex : Executor) (inp : Input) (s t : State) :
    runCycleWith ex inp s = .next t ↔
      ∃ u, runOpsWith ex (cycleOps inp) (beginCycle s) = .next u ∧ t = noteTimer inp u := by
  constructor
  · intro h
    rw [runCycleWith] at h
    split at h
    · next u hu =>
      cases h
      exact ⟨u, hu, rfl⟩
    · cases h
    · cases h
  · rintro ⟨u, hu, rfl⟩
    rw [runCycleWith, hu]

theorem step_next (s t : State) :
    step s = .next t ↔
      ∃ u, runOps (cycleOps (nextInput s)) (beginCycle s) = .next u ∧ t = noteTimer (nextInput s) u :=
  runCycleWith_next exec (nextInput s) s t

theorem stepBuild_next (c : Config) (s t : State) :
    stepBuild c s = .next t ↔
      ∃ u, runOpsWith (execBuild c) (cycleOps (nextInput s)) (beginCycle s) = .next u ∧
        t = noteTimer (nextInput s) u :=
  runCycleWith_next (execBuild c) (nextInput s) s t

@[simp] theorem execBuild_tick (c : Config) (s : State) : execBuild c .tick s = .next (dispatchSamples c s) := rfl

/-- `TICK` is the one operation that reads the configuration. -/
theorem execBuild_ne_tick (c : Config) (i : Instr) (s : State) (h : i ≠ .tick) : execBuild c i s = exec i s := by
  cases i <;> first | rfl | exact absurd rfl h

/-- The next input of a state whose list is not empty. -/
@[simp] theorem nextInput_cons (s : State) (i : Input) (is : List Input) (h : s.inputs = i :: is) :
    nextInput s = i := by
  simp [nextInput, h]

/-- `withFetchWord` puts its input vector in front and leaves the rest alone. -/
theorem withFetchWord_nextInput (s : State) (nbits w : Nat) :
    nextInput (s.withFetchWord nbits w) = tableInput nbits w := rfl

@[simp] theorem withFetchWord_regs (s : State) (nbits w : Nat) : (s.withFetchWord nbits w).regs = s.regs := rfl
@[simp] theorem withFetchWord_pins (s : State) (nbits w : Nat) : (s.withFetchWord nbits w).pins = s.pins := rfl
@[simp] theorem withFetchWord_events (s : State) (nbits w : Nat) :
    (s.withFetchWord nbits w).events = s.events := rfl
@[simp] theorem withFetchWord_timerAwaiting (s : State) (nbits w : Nat) :
    (s.withFetchWord nbits w).timerAwaiting = s.timerAwaiting := rfl

/-- A run of one step more, for any machine of the host's interface. -/
theorem run_succ_next (M : Host.Core) (n : Nat) (s t : M.State) (h : M.step s = .next t) :
    M.run (n + 1) s = M.run n t := by
  rw [Host.Core.run, h]

/-- A run of one step more, for this machine. -/
theorem core_run_succ (n : Nat) (s t : State) (h : step s = .next t) :
    Sys2Proof.core.run (n + 1) s = Sys2Proof.core.run n t :=
  run_succ_next Sys2Proof.core n s t h

end Sys2Proof.Machine
end

