-- ==== Sys2Proof/Laws/NotationText.lean ====
section
/-!
SUPPORT. The reader of the notation, piece by piece: how a word of the text becomes a token, and how a number printed in
decimal is read back.
-/

namespace Sys2Proof.Machine

/-- A character that belongs to a word or a number: no separator, no mark, no comment. -/
def isPlain (c : Char) : Bool := !(c == ';' || c == ' ' || c == '\t' || isMark c)

theorem tokens_plain (cur : List Char) (c : Char) (cs : List Char) (h : isPlain c = true) :
    tokens cur (c :: cs) = tokens (c :: cur) cs := by
  simp only [isPlain, Bool.not_eq_true', Bool.or_eq_false_iff, beq_eq_false_iff_ne] at h
  have hb : c ≠ '|' := by
    rintro rfl
    exact absurd h.2 (by decide)
  rw [tokens.eq_def]
  split
  · simp_all
  · next heq =>
    simp only [List.cons.injEq] at heq
    exact absurd heq.1 hb
  · next heq =>
    simp only [List.cons.injEq] at heq
    obtain ⟨rfl, rfl⟩ := heq
    simp [h.1.1.1, h.1.1.2, h.1.2, h.2]

theorem tokens_plain_append (w cur rest : List Char) (h : ∀ c ∈ w, isPlain c = true) :
    tokens cur (w ++ rest) = tokens (w.reverse ++ cur) rest := by
  induction w generalizing cur with
  | nil => rfl
  | cons c w ih =>
    simp only [List.mem_cons, forall_eq_or_imp] at h
    rw [List.cons_append, tokens_plain _ _ _ h.1, ih _ h.2]
    simp

/-- What may follow a word of the printed text: the end, a comma or a space. -/
def endsWord (rest : List Char) : Prop := rest = [] ∨ (∃ r, rest = ',' :: r) ∨ ∃ r, rest = ' ' :: r

/-- A word or number that ends is one token. -/
theorem tokens_word (w rest : List Char) (hw : w ≠ []) (h : ∀ c ∈ w, isPlain c = true) (hr : endsWord rest) :
    tokens [] (w ++ rest) = w :: tokens [] rest := by
  rw [tokens_plain_append _ _ _ h, List.append_nil]
  have he : w.reverse.isEmpty = false := by simpa using hw
  rcases hr with rfl | ⟨r, rfl⟩ | ⟨r, rfl⟩ <;> simp [tokens, flushToken, isMark, hw]

theorem digits_append (b acc : Nat) (xs ys : List Char) :
    digits b acc (xs ++ ys) = (digits b acc xs).bind fun a => digits b a ys := by
  induction xs generalizing acc with
  | nil => rfl
  | cons c cs ih =>
    simp only [List.cons_append, digits]
    cases digitValue c with
    | none => rfl
    | some v =>
      simp only []
      split_ifs <;> simp [ih]

theorem digitValue_digitChar (k : Nat) (h : k < 10) : digitValue k.digitChar = some k := by
  interval_cases k <;> rfl

theorem isPlain_toDigits (n : Nat) : ∀ c ∈ Nat.toDigits 10 n, isPlain c = true := by
  intro c hc
  have hd := Nat.isDigit_of_mem_toDigits (by norm_num) (by norm_num) hc
  simp only [Char.isDigit, Bool.and_eq_true, decide_eq_true_eq] at hd
  have h2 : 48 ≤ c.toNat ∧ c.toNat ≤ 57 := hd
  have k : ∀ x : Char, x.toNat < 48 ∨ 57 < x.toNat → c ≠ x := by
    rintro x hx rfl
    omega
  simp [isPlain, isMark, k '#' (by decide), k '@' (by decide), k ',' (by decide), k '|' (by decide),
    k '-' (by decide), k '*' (by decide), k ';' (by decide), k ' ' (by decide), k '\t' (by decide)]

theorem digits_toDigits (n : Nat) : digits 10 0 (Nat.toDigits 10 n) = some n := by
  induction n using Nat.strong_induction_on with
  | _ n ih =>
    by_cases h : n < 10
    · rw [Nat.toDigits_of_lt_base h]
      simp [digits, digitValue_digitChar n h, h]
    · rw [Nat.toDigits_of_base_le (by norm_num) (by omega), digits_append, ih _ (by omega)]
      simp only [Option.bind_some, digits, digitValue_digitChar _ (Nat.mod_lt n (by norm_num : 0 < 10)),
        if_pos (Nat.mod_lt n (by norm_num : 0 < 10))]
      congr 1
      omega

/-- A number printed in decimal is read back. -/
theorem parseNumber_toDigits (n : Nat) : parseNumber (Nat.toDigits 10 n) = some n := by
  have hx : 'x' ∉ Nat.toDigits 10 n := fun h => by
    have := Nat.isDigit_of_mem_toDigits (by norm_num) (by norm_num) h
    revert this
    decide
  unfold parseNumber
  split
  · next h => exact absurd h Nat.toDigits_ne_nil
  · next h =>
    rw [h] at hx
    simp at hx
  · next h =>
    rw [h] at hx
    simp at hx
  · exact digits_toDigits n

theorem immediate_toNat (d : Word) : immediate (d.toNat : Int) = some d := by
  have hd := d.isLt
  rw [immediate, if_pos (by omega)]
  congr 1
  apply BitVec.eq_of_toNat_eq
  simp [word]

/-- The immediate of a printed write is read back. -/
theorem parseImm_toDigits (d : Word) (ts : List (List Char)) :
    parseImm (['#'] :: Nat.toDigits 10 d.toNat :: ts) = some (d, ts) := by
  have hm : Nat.toDigits 10 d.toNat ≠ ['-'] := by
    intro h
    have := Nat.isDigit_of_mem_toDigits (b := 10) (n := d.toNat) (c := '-') (by norm_num) (by norm_num)
      (by rw [h]; simp)
    revert this
    decide
  unfold parseImm
  split
  · next h =>
    simp only [List.cons.injEq] at h
    exact absurd h.2.1 hm
  · next h =>
    simp only [List.cons.injEq] at h
    obtain ⟨-, rfl, rfl⟩ := h
    rw [parseNumber_toDigits]
    simp [immediate_toNat]
  · next h => exact absurd rfl (h _ _)

end Sys2Proof.Machine
end

