-- ==== Sys2Proof/Laws/PerInstr.lean ====
section
/-!
SUPPORT. The per-instruction family `TableRow`: the canonical command word of a well-formed operation matches a row of
the opcode table with the operation's own mnemonic (30_encoding.md R65). One lemma per constructor.
-/

namespace Sys2Proof.Laws

/-- The operation's encoding, where it is a command word, is accepted by a row of its mnemonic. -/
def TableRow.Statement (i : Instr) : Prop :=
  i.wellFormed = true → ∀ w, encode i = .command w → ∃ r ∈ opcodeRows, r.mnemonic = i.mnemonic ∧ r.accepts w = true

/-- A write's command word under a row's mask: the write data falls away. -/
theorem encodeWrite_and (a : Addr) (d : Word) (m : BitVec 7) :
    encodeWrite a d &&& (m ++ 0#16) = ((1#3 ++ a) &&& m) ++ 0#16 := by
  have key : ∀ x : BitVec 7, (x ++ d : BitVec (7 + 16)) &&& (m ++ 0#16) = (x &&& m) ++ 0#16 := by
    intro x
    apply BitVec.eq_of_getLsbD_eq
    intro i hi
    rw [BitVec.getLsbD_and, BitVec.getLsbD_append, BitVec.getLsbD_append, BitVec.getLsbD_append]
    split_ifs <;> simp
  exact key (1#3 ++ a)

theorem accepts_encodeWrite (r : OpcodeRow) (a : Addr) (d : Word) (m p : BitVec 7) (hm : r.mask = m ++ 0#16)
    (hp : r.pattern = p ++ 0#16) (h : (1#3 ++ a) &&& m = p) : r.accepts (encodeWrite a d) = true := by
  simp [OpcodeRow.accepts, hm, hp, encodeWrite_and, h]

theorem TableRow.reset : TableRow.Statement .reset := by
  rintro - w h
  cases h
  exact ⟨⟨"RESET", 0x400000#23, 0x400000#23⟩, by simp [opcodeRows], rfl, by decide⟩

theorem TableRow.tick : TableRow.Statement .tick := by
  rintro - w h
  cases h
  exact ⟨⟨"TICK", 0x600000#23, 0x200000#23⟩, by simp [opcodeRows], rfl, by decide⟩

theorem TableRow.wrPinc (d : Word) : TableRow.Statement (.wrPinc d) := by
  rintro - w h
  cases h
  exact ⟨⟨"WR_PINC", 0x5F0000#23, 0x100000#23⟩, by simp [opcodeRows], rfl,
    accepts_encodeWrite _ _ d 0x5F#7 0x10#7 (by decide) (by decide) (by decide)⟩

theorem TableRow.wrPmax (d : Word) : TableRow.Statement (.wrPmax d) := by
  rintro - w h
  cases h
  exact ⟨⟨"WR_PMAX", 0x5F0000#23, 0x110000#23⟩, by simp [opcodeRows], rfl,
    accepts_encodeWrite _ _ d 0x5F#7 0x11#7 (by decide) (by decide) (by decide)⟩

theorem TableRow.wrGain (d : Word) : TableRow.Statement (.wrGain d) := by
  rintro - w h
  cases h
  exact ⟨⟨"WR_GAIN", 0x5F0000#23, 0x120000#23⟩, by simp [opcodeRows], rfl,
    accepts_encodeWrite _ _ d 0x5F#7 0x12#7 (by decide) (by decide) (by decide)⟩

theorem TableRow.wrOffs (d : Word) : TableRow.Statement (.wrOffs d) := by
  rintro - w h
  cases h
  exact ⟨⟨"WR_OFFS", 0x5F0000#23, 0x130000#23⟩, by simp [opcodeRows], rfl,
    accepts_encodeWrite _ _ d 0x5F#7 0x13#7 (by decide) (by decide) (by decide)⟩

theorem TableRow.wrIgn4 (a : Addr) (d : Word) : TableRow.Statement (.wrIgn4 a d) := by
  rintro hw w h
  cases h
  exact ⟨⟨"WR_IGN", 0x5C0000#23, 0x140000#23⟩, by simp [opcodeRows], rfl,
    accepts_encodeWrite _ _ d 0x5C#7 0x14#7 (by decide) (by decide)
      (by simp only [Instr.wellFormed] at hw; revert a; decide)⟩

theorem TableRow.wrIgn8 (a : Addr) (d : Word) : TableRow.Statement (.wrIgn8 a d) := by
  rintro hw w h
  cases h
  exact ⟨⟨"WR_IGN", 0x5C0000#23, 0x180000#23⟩, by simp [opcodeRows], rfl,
    accepts_encodeWrite _ _ d 0x5C#7 0x18#7 (by decide) (by decide)
      (by simp only [Instr.wellFormed] at hw; revert a; decide)⟩

theorem TableRow.wrIgnC (a : Addr) (d : Word) : TableRow.Statement (.wrIgnC a d) := by
  rintro hw w h
  cases h
  exact ⟨⟨"WR_IGN", 0x5C0000#23, 0x1C0000#23⟩, by simp [opcodeRows], rfl,
    accepts_encodeWrite _ _ d 0x5C#7 0x1C#7 (by decide) (by decide)
      (by simp only [Instr.wellFormed] at hw; revert a; decide)⟩

theorem TableRow.nop : TableRow.Statement .nop := by
  rintro - w h
  cases h
  exact ⟨⟨"NOP", 0x700000#23, 0x000000#23⟩, by simp [opcodeRows], rfl, by decide⟩

theorem TableRow.rd (a : Addr) : TableRow.Statement (.rd a) := by
  rintro - w h
  cases h

end Sys2Proof.Laws
end

