-- ==== Sys2Proof/Tests/Slice0.lean ====
section
/-!
SUPPORT. Tests. Expected values come from spec/95_test_vectors.md (its section or program is named), from the worked
examples of the rules, or from the encodings of 30_encoding.md R60 and R65 written out by hand. The theorems named
witness_<Statement> show inputs that meet the hypotheses of the statements of Certificates/Slice0/Obligations.lean.
-/

namespace Sys2Proof.Tests

open Sys2Proof.Machine

/-! ## WellFormed: an ill-formed term for each check -/

theorem test_wrIgn4_refuses_other_rows :
    (Instr.wrIgn4 0x3#4 0).wellFormed = false ∧ (Instr.wrIgn4 0x8#4 0).wellFormed = false := by decide
theorem test_wrIgn8_refuses_other_rows :
    (Instr.wrIgn8 0x7#4 0).wellFormed = false ∧ (Instr.wrIgn8 0xC#4 0).wellFormed = false := by decide
theorem test_wrIgnC_refuses_other_rows :
    (Instr.wrIgnC 0xB#4 0).wellFormed = false ∧ (Instr.wrIgnC 0x0#4 0).wellFormed = false := by decide
theorem test_line_refuses_two_writes : (Line.mk [.wrGain 0, .wrOffs 0] none).wellFormed = false := by decide
theorem test_config_refuses_zero_bits : ({ hardwareConfig with dacBits := 0 } : Config).wf = false := by decide

/-! ## Decoding: one word of each row, bits written out from R60 (rst tick we addr wdata) -/

theorem test_decode_reset : decodeCommand 0b1_0_0_0000_0000000000000000#23 = [.reset] := by decide
theorem test_decode_reset_wins : decodeCommand 0b1_1_1_0010_0000000000000001#23 = [.reset] := by decide
theorem test_decode_tick : decodeCommand 0b0_1_0_1111_0001001000110100#23 = [.tick] := by decide
theorem test_decode_wrPinc : decodeCommand 0b0_0_1_0000_0001100110011001#23 = [.wrPinc 0x1999#16] := by decide
theorem test_decode_wrPmax : decodeCommand 0b0_0_1_0001_0000011001100110#23 = [.wrPmax 0x0666#16] := by decide
theorem test_decode_wrGain : decodeCommand 0b0_0_1_0010_0110011001101111#23 = [.wrGain 0x666F#16] := by decide
theorem test_decode_wrOffs : decodeCommand 0b0_0_1_0011_1110000000000000#23 = [.wrOffs 0xE000#16] := by decide
theorem test_decode_wrIgn4 : decodeCommand 0b0_0_1_0100_0001001000110100#23 = [.wrIgn4 0x4#4 0x1234#16] := by decide
theorem test_decode_wrIgn8 : decodeCommand 0b0_0_1_1010_0000111111111111#23 = [.wrIgn8 0xA#4 0x0FFF#16] := by decide
theorem test_decode_wrIgnC : decodeCommand 0b0_0_1_1111_0101011001111000#23 = [.wrIgnC 0xF#4 0x5678#16] := by decide
theorem test_decode_nop : decodeCommand 0b0_0_0_1111_0001001000110100#23 = [.nop] := by decide
theorem test_decode_rd : decode (.read 0b1011#4) = [.rd 0xB#4] := by decide
theorem test_decode_shared : decodeCommand 0b0_1_1_0010_0000000000000000#23 = [.tick, .wrGain 0#16] := by decide
theorem test_table_words :
    decodeTableWord 24 0x200000 = some .tick ∧ decodeTableWord 24 0x1C0000 = some (.wrIgnC 0xC#4 0) ∧
    decodeTableWord 8 0x0 = some (.rd 0x0#4) := by decide

/-! ## The notation (R68) -/

/-- Cycle 10 of program P3: `TICK || WR_GAIN #0x0000` is 0x320000. -/
theorem test_assemble_shared :
    Line.assemble { cmds := [.tick, .wrGain 0x0000#16], rd := some 0x2#4 } = { command := 0x320000#23, read := 0x2#4 } := by
  decide
theorem test_immediate : immediate (-8192) = some 0xE000#16 ∧ immediate 65536 = none := by decide

theorem test_parse_line :
    parseLine "NOP, RD @0xB" = some [{ cmds := [.nop], rd := some 0xB#4 }] ∧ parseLine "TICK | | WR_PINC #1" = none := by
  decide +kernel
theorem test_text_reads_back :
    parseLine (Line.text { cmds := [.tick, .wrIgnC 0xF#4 0xFFFF#16], rd := some 0xF#4 }) =
      some [{ cmds := [.tick, .wrIgnC 0xF#4 0xFFFF#16], rd := some 0xF#4 }] := by decide +kernel
theorem witness_ListingTextReadsAsItsLines :
    (Line.mk [.tick, .wrIgnC 0xF#4 0xFFFF#16] (some 0xF#4)).wellFormed = true ∧
    parseLine "WR @15, #65535, RD @15" = some [{ cmds := [.wrIgnC 0xF#4 0xFFFF#16], rd := some 0xF#4 }] := by
  decide +kernel

/-! ## The datapath (sections 2.1 to 2.6) -/

theorem test_step_negative : phaseStep 0xFFFF#16 0x0666#16 = 0xFFFF#16 := by decide
theorem test_step_most_negative : phaseStep 0x8000#16 0xFFFF#16 = 0x0001#16 := by decide
theorem test_accumulate_wraps : accumulate 0xFF78#16 0x0147#16 = 0x00BF#16 := by decide
theorem test_sine_falling : sine hardwareConfig 0x80FF#16 = -801 := by decide +kernel
theorem test_sine_index_wraps : sine hardwareConfig 0xFFFF#16 = -4 := by decide +kernel
theorem test_sine_plain : sine { hardwareConfig with interp := false } 0x0147#16 = 804 := by decide +kernel
theorem test_lane3 : lanePhase .ch3 0xFFFF#16 = 0xAAA9#16 := by decide
theorem test_scale_wraps : scale 0x4000#16 0x4001#16 32767 = 0x8000#16 := by decide
theorem test_map_drops_low_bits : dacMap hardwareConfig 0xFFEF#16 = 0x07FE#16 := by decide

/-! ## One step -/

/-- The start state of section 2.7, with one input vector to present. -/
def start (command : Command) (read : ReadWord) : State :=
  { State.reset with
    regs := { pinc := 0x1999#16, pmax := 0x0666#16, gain := 0x666F#16, offs := 0, phase := 0x0147#16,
              sample1 := 0x0335#16, sample2 := 0x570C#16, sample3 := 0xA5BB#16,
              dacLast1 := 0x0800#16, dacLast2 := 0x0800#16, dacLast3 := 0x0800#16 }
    inputs := [{ command := command, read := read }] }

/-- A check of the state a step ends in; a fault or a refusal fails it. -/
def after (s : State) (check : State → Bool) : Bool :=
  match step s with
  | .next t => check t
  | .fault _ => false
  | .refused _ => false

/-- Section 2.7, row 0x200000. -/
theorem test_tick_samples :
    after (start 0x200000#23 0x4#4) (fun t =>
      t.regs.phase == 0x028E#16 && t.regs.sample1 == 0x066A#16 && t.regs.sample2 == 0x5552#16 &&
        t.regs.sample3 == 0xA443#16 && t.pins.rdata == 0x0147#16) = true := by decide +kernel
theorem test_tick_emits_previous :
    after (start 0x200000#23 0x4#4) (fun t =>
      t.events == [.dacWrite .ch1 0x0833#16, .dacWrite .ch2 0x0D70#16, .dacWrite .ch3 0x025B#16, .ack] &&
        t.pins.tickAck && t.regs.dacLast2 == 0x0D70#16) = true := by decide +kernel
/-- Section 2.7, row 0x320000: the tick computes with the old gain, and the new gain stands afterwards. -/
theorem test_tick_beside_write :
    after (start 0x320000#23 0x2#4) (fun t =>
      t.regs.gain == 0x0000#16 && t.regs.sample1 == 0x066A#16 && t.pins.rdata == 0x666F#16) = true := by decide +kernel
/-- Section 2.7, row 0x600000: the tick is lost and not acknowledged. -/
theorem test_reset_beside_tick :
    after (start 0x600000#23 0x8#4) (fun t =>
      t.regs == Regs.reset && t.events == [] && !t.pins.tickAck && t.pins.rdata == 0x0800#16 && t.timerAwaiting) =
      true := by decide +kernel
theorem test_wrPinc : after (start 0x100CCC#23 0#4) (fun t => t.regs.pinc == 0x0CCC#16 && t.regs.pmax == 0x0666#16) = true := by
  decide +kernel
theorem test_wrPmax : after (start 0x11FFFF#23 1#4) (fun t => t.regs.pmax == 0xFFFF#16 && t.regs.pinc == 0x1999#16) = true := by
  decide +kernel
theorem test_wrGain : after (start 0x128000#23 2#4) (fun t => t.regs.gain == 0x8000#16 && t.pins.rdata == 0x666F#16) = true := by
  decide +kernel
theorem test_wrOffs : after (start 0x13E001#23 3#4) (fun t => t.regs.offs == 0xE001#16 && t.regs.sample1 == 0x0335#16) = true := by
  decide +kernel
theorem test_wrIgn4 : after (start 0x14BEEF#23 4#4) (fun t => t.regs == (start 0 0).regs) = true := by decide +kernel
theorem test_wrIgn8 : after (start 0x1A0FFF#23 0xA#4) (fun t => t.regs == (start 0 0).regs) = true := by decide +kernel
theorem test_wrIgnC : after (start 0x1FBEEF#23 0xF#4) (fun t => t.regs == (start 0 0).regs && t.pins.rdata == 0#16) = true := by
  decide +kernel
theorem test_nop : after (start 0x0F1234#23 0#4) (fun t => t.regs == (start 0 0).regs && t.pins.dac1 == 0x0800#16) = true := by
  decide +kernel
theorem test_rd : after (start 0#23 6#4) (fun t => t.pins.rdata == 0x570C#16) = true := by decide +kernel
/-- The first instruction after reset, presented as the host presents it. -/
theorem test_first_tick_after_reset :
    after (State.reset.withFetchWord 24 0x200000) (fun t => t.regs.dacLast1 == 0x0800#16 && t.inputs == []) = true := by
  decide +kernel

/-- A build without interpolation (R93: 0x0147 gives 804; R101 corner b: unit gain makes it 803) and 8 DAC bits. -/
theorem test_plain_build :
    (match stepBuild { hardwareConfig with interp := false, dacBits := 8 }
        { start 0x200000#23 0#4 with regs := { (start 0 0).regs with phase := 0, gain := 0x7FFF#16 } } with
     | .next t => t.regs.phase == 0x0147#16 && t.regs.sample1 == 0x0323#16 && t.regs.dacLast1 == 0x0083#16
     | .fault _ => false
     | .refused _ => false) = true := by decide +kernel

/-! ## Pseudo-operations (section 2.8) -/

theorem test_setFreq : setFreq 1000 5000 200000 = some [.wrPmax 0x0666#16, .wrPinc 0x1999#16] := by decide +kernel
theorem test_setFreq_zero_divisor : setFreq 1000 0 200000 = none := by decide +kernel
theorem test_setGain_aliases : setGain {} (3 / 2) = [.wrGain 0xBFFE#16] := by decide +kernel
theorem test_setGain_clamped : setGain { callerClamps := true } (3 / 2) = [.wrGain 0x7FFF#16] := by decide +kernel
theorem test_setOffs_truncates_toward_zero : setOffs {} (-1 / 4) = [.wrOffs 0xE001#16] := by decide +kernel

/-! ## Witnesses for the hypotheses of the statements -/

theorem witness_DecodeInvertsEncode :
    (Instr.wrIgn4 0x4#4 0xFFFF#16).wellFormed = true ∧ (Instr.wrIgn8 0xB#4 0x0000#16).wellFormed = true ∧
    (Instr.wrIgnC 0xF#4 0x1234#16).wellFormed = true := by decide
theorem witness_LineAssemblesToItsOperations :
    (Line.mk [.wrIgnC 0xF#4 1] (some 0xB#4)).wellFormed = true ∧ (Line.mk [.tick, .wrPinc 7] none).wellFormed = true := by
  decide
theorem witness_DecodedOperationsReencode : Instr.wrIgn4 0x4#4 0 ∈ decodeCommand 0x340000#23 := by decide
theorem witness_StepRunsDecodedOperation_one :
    decodeCommand 0x200000#23 = [.tick] ∧ ∃ t : State, exec .tick State.reset = .next t := ⟨by decide, _, rfl⟩
theorem witness_StepRunsDecodedOperation_two :
    decodeCommand 0x300007#23 = [.tick, .wrPinc 7] ∧
    ∃ t u : State, exec .tick State.reset = .next t ∧ exec (.wrPinc 7) t = .next u := ⟨by decide, _, _, rfl, rfl⟩
theorem witness_ResetClearsEveryRegister : (0x400000#23).getLsbD 22 = true ∧ (0x7FFFFF#23).getLsbD 22 = true := by
  decide
theorem witness_WritesReadBackAndAreIdempotent : (0x3#4).toNat < 4 := by decide
theorem witness_StepIsProductBits30To15 :
    0 ≤ (0x0000#16).toInt ∧ ((0xFFFF#16).toInt < 0 ∧ (0x0001#16 : Word) ≠ 0x0000#16) ∧
    ((0x0000#16 : Word) = 0x0000#16 ∨ (0x0000#16 : Word) = 0x0000#16) := by decide
theorem witness_StepStaysBelowCeiling :
    0 ≤ (0x7FFF#16).toInt ∧ (0xFFFF#16 : Word) ≠ 0x0000#16 ∧ 1 ≤ (0x0001#16).toNat ∧ (0x8000#16).toNat ≤ 32768 ∧
    32769 ≤ (0x8001#16).toNat := by decide
theorem witness_NegativeIncrementRunsBackward : (0x8000#16).toInt < 0 := by decide
theorem witness_TicksArePeriodic : 65536 / Nat.gcd (phaseStep 0x4000#16 0x8000#16).toNat 65536 ∣ 4 := by decide +kernel
theorem witness_SineBlendsNeighbours : hardwareConfig.interp = true ∧ (0xFF00#16).toNat % 256 = 0 := by decide
theorem witness_SinePlainLookup : ({ hardwareConfig with interp := false } : Config).interp = false := rfl
theorem witness_SineHalfWaveAntisymmetry : (0x8000#16).toNat % 256 = 0 := by decide
theorem witness_ScaleAppliesGainAndOffset :
    ((-32768 : Int) ≤ -32768 ∧ (-32768 : Int) ≤ 32767) ∧ ((0 : Int) < 1 ∧ (1 : Int) ≤ 32767) ∧
    ((-32767 : Int) ≤ -32767 ∧ (-32767 : Int) ≤ 0) := by decide
theorem witness_TickEmitsThenAdvances : (0x320000#23).getLsbD 22 = false ∧ (0x320000#23).getLsbD 21 = true := by decide
theorem witness_ZeroFrequencyIsSteady :
    (State.reset.regs.pinc = 0x0000#16 ∨ State.reset.regs.pmax = 0x0000#16) ∧ State.reset.regs.phase = 0x0000#16 ∧
    State.reset.regs.gain = 0x0000#16 := by decide
theorem witness_MapShiftsBiasedSample :
    (1 ≤ ({ hardwareConfig with dacBits := 1 } : Config).dacBits) ∧
    ({ hardwareConfig with dacBits := 16 } : Config).dacBits ≤ 16 := by decide
theorem witness_MapIsMonotonicSixteenToOne : (0x8000#16).toInt ≤ (0x7FFF#16).toInt ∧ 4095 < 4096 := by decide
theorem witness_OutputLatencyIsOneTick :
    ∀ i ∈ [Instr.wrGain 3, Instr.nop, Instr.rd 0xF#4], i ≠ .reset ∧ i ≠ .tick := by decide
theorem witness_SilentUntilParametersArrive :
    (State.reset.regs.gain = 0x0000#16 ∧ State.reset.regs.offs = 0x0000#16 ∧ State.reset.regs.sample1 = 0x0000#16 ∧
      State.reset.regs.sample2 = 0x0000#16 ∧ State.reset.regs.sample3 = 0x0000#16 ∧
      State.reset.regs.pinc = 0x0000#16) ∧
    ((0x1#4 : Addr) ≠ 0x2#4 ∧ (0x1#4 : Addr) ≠ 0x3#4) ∧ ((0x4#4 : Addr) ≠ 0x2#4 ∧ (0x4#4 : Addr) ≠ 0x3#4) := by decide
theorem witness_EveryBuildTicksWithItsParameters : Instr.reset ≠ .tick ∧ Instr.rd 0 ≠ .tick := by decide
theorem witness_EveryBuildKeepsItsDacRange :
    ({ hardwareConfig with dacBits := 1 } : Config).wf = true ∧
    ({ hardwareConfig with dacBits := 16 } : Config).wf = true ∧
    State.reset.regs.dacLast1.toNat < 2 ^ 1 ∧ State.reset.regs.dacLast2.toNat < 2 ^ 1 ∧
    State.reset.regs.dacLast3.toNat < 2 ^ 1 ∧
    ∃ t : State, stepBuild { hardwareConfig with dacBits := 1 } State.reset = .next t :=
  ⟨by decide, by decide, by decide, by decide, by decide, _, rfl⟩
theorem witness_HostConversionsOfAnyOperands : (5000 : Rat) ≠ 0 ∧ (-1 : Rat) ≠ 0 := by norm_num
theorem witness_DacCodesStayInRange :
    (start 0x200000#23 0#4).regs.dacCodesFit = true ∧ ∃ t : State, step (start 0x200000#23 0#4) = .next t :=
  ⟨by decide, _, rfl⟩
theorem witness_HistoryStaysCompleteTicks :
    ({ start 0x200000#23 0#4 with
        events := [.dacWrite .ch1 0x0800#16, .dacWrite .ch2 0x0800#16, .dacWrite .ch3 0x0800#16, .ack] } :
      State).outputInv = true := by decide
theorem witness_TimerWaitsOnlyAfterResetTick :
    timerLive (start 0x200000#23 0#4) = true ∧ timerContract (start 0x200000#23 0#4) = true ∧
    timerContract (start 0x600000#23 0#4) = false := by decide
theorem witness_SetFreqWritesInRangeWords :
    (0 : Rat) ≤ 0 ∧ (0 : Rat) ≤ 50 ∧ (0 : Rat) < 50 ∧ (0 : Rat) < 100 ∧ (50 : Rat) ≤ 100 / 2 := by norm_num
theorem witness_SetGainAndSetOffsTruncate :
    ((0 : Rat) ≤ 1 ∧ (1 : Rat) ≤ 1) ∧ ((-1 : Rat) ≤ -1 ∧ (-1 : Rat) < 0) := by norm_num
theorem witness_ControlPassIsIdempotent :
    ctrlPass {}
      { outputFrequencyHz := 1000
        maxOutputFrequencyHz := 5000
        samplingFrequencyHz := 200000
        gain := 8003 / 10000
        offset := 0 } =
      some [.wrPmax 0x0666#16, .wrPinc 0x1999#16, .wrGain 0x666F#16, .wrOffs 0x0000#16] := by
  decide +kernel

end Sys2Proof.Tests
end

section
/-!
PROOFS. The generator at rest and `RESET` (10_state.md R23): with a zero step the phase stands still, with zero gain and
offset every sample is zero, and the DAC's code for a zero sample is the midscale 0x0800.
-/

namespace Sys2Proof.Machine

/-! ## What `RESET` and `TICK` answer -/

@[simp] theorem exec_reset (s : State) : exec .reset s = .next s.holdPins.clearRegs := rfl

@[simp] theorem exec_tick (s : State) : exec .tick s = .next (dispatchSamples hardwareConfig s) := rfl

@[simp] theorem State.reset_regs : State.reset.regs = Regs.reset := rfl

/-! ## Zero words (R7) -/

@[simp] theorem sint_zero : sint 0#16 = 0 := rfl

@[simp] theorem uint_zero : uint 0#16 = 0 := rfl

@[simp] theorem word_zero : word 0 = 0#16 := rfl

@[simp] theorem word_uint (v : Word) : word (uint v) = v := by
  have hv := uint_nonneg v
  have hlt := uint_lt v
  exact ((word_eq_iff v (uint v)).mpr (by omega)).symm

@[simp] theorem floorShift_zero (k : Nat) : floorShift 0 k = 0 := Int.zero_ediv _

/-! ## The phase stands still (R80, R81) -/

@[simp] theorem phaseStep_pinc_zero (pmax : Word) : phaseStep 0#16 pmax = 0#16 := by simp [phaseStep]

@[simp] theorem phaseStep_pmax_zero (pinc : Word) : phaseStep pinc 0#16 = 0#16 := by simp [phaseStep]

@[simp] theorem accumulate_zero (phase : Word) : accumulate phase 0#16 = phase := by simp [accumulate]

theorem nextPhase_of_zero_parameter (r : Regs) (h : r.pinc = 0#16 ∨ r.pmax = 0#16) : nextPhase r = r.phase := by
  rcases h with h | h <;> simp [nextPhase, h]

/-! ## The samples are silent (R101, R130) -/

@[simp] theorem scale_zero (y : Int) : scale 0#16 0#16 y = 0#16 := by simp [scale]

@[simp] theorem laneSample_zero (c : Config) (ch : Channel) (p : Word) : laneSample c 0#16 0#16 ch p = 0#16 :=
  scale_zero _

@[simp] theorem dacMap_hardware_zero : dacMap hardwareConfig 0#16 = 0x0800#16 := by simp [dacMap_hardware, word]

/-! ## The reset state (R23) -/

/-- Advance leaves the reset values where they are; Emit gives each channel the code of a zero sample. -/
theorem dispatchSamples_regs_of_reset (s : State) (h : s.regs = Regs.reset) :
    (dispatchSamples hardwareConfig s).regs =
      { Regs.reset with dacLast1 := 0x0800#16, dacLast2 := 0x0800#16, dacLast3 := 0x0800#16 } := by
  rw [dispatchSamples_regs, h, nextPhase_of_zero_parameter Regs.reset (.inl rfl)]
  simp [Regs.reset]

end Sys2Proof.Machine

section
open Sys2Proof Sys2Proof.Machine

/-- Settles O15: `RESET` clears the registers, and the body of `TICK` on cleared registers is
`dispatchSamples_regs_of_reset`. -/
theorem resetStateIsAdvanceFixedPoint : Obligations.ResetStateIsAdvanceFixedPoint := by
  refine ⟨rfl, fun s => ?_⟩
  have hclear : s.holdPins.clearRegs.regs = Regs.reset := State.clearRegs_regs _
  exact ⟨_, _, exec_reset s, hclear, exec_tick _, dispatchSamples_regs_of_reset _ hclear⟩

end
end

section
/-!
PROOFS. Decoding against encoding (30_encoding.md R60, R64, R65): the fields of a command word, the round trip of
every operation, and the opcode table read field by field.
-/

namespace Sys2Proof

/-! ## Command words and their fields (R60) -/

/-- Every command word is its five fields put together. -/
theorem packCommand_fields (w : Command) :
    packCommand (cmdRst w) (cmdTick w) (cmdWe w) (cmdAddr w) (cmdWdata w) = w := by
  apply BitVec.eq_of_getLsbD_eq
  intro i hi
  rw [packCommand_getLsbD]
  simp only [cmdRst, cmdTick, cmdWe, cmdAddr, cmdWdata, BitVec.getLsbD_extractLsb']
  split_ifs with hdata haddr hwe htick hrst
  · simp [hdata]
  · have hoffset : 16 + (i - 16) = i := by omega
    have hlt : i - 16 < 4 := by omega
    simp [hoffset, hlt]
  · rw [hwe]
  · rw [htick]
  · rw [hrst]
  · omega

/-- Words that share a cycle are put together field by field (R65). -/
theorem packCommand_or (r t w r' t' w' : Bool) (a a' : Addr) (d d' : Word) :
    packCommand r t w a d ||| packCommand r' t' w' a' d' =
      packCommand (r || r') (t || t') (w || w') (a ||| a') (d ||| d') := by
  apply BitVec.eq_of_getLsbD_eq
  intro i hi
  simp only [BitVec.getLsbD_or, packCommand_getLsbD]
  split_ifs <;> rfl

theorem toNat_append_eq_add {m n : Nat} (x : BitVec m) (y : BitVec n) :
    (x ++ y).toNat = x.toNat * 2 ^ n + y.toNat := by
  rw [BitVec.toNat_append, ← Nat.shiftLeft_add_eq_or_of_lt y.isLt, Nat.shiftLeft_eq]

/-- The number a command word is, by its fields. -/
theorem packCommand_toNat (r t w : Bool) (a : Addr) (d : Word) :
    (packCommand r t w a d).toNat =
      r.toNat * 0x400000 + t.toNat * 0x200000 + w.toNat * 0x100000 + a.toNat * 0x10000 + d.toNat := by
  simp only [packCommand, toNat_append_eq_add, BitVec.toNat_ofBool]
  omega

/-- A command word as a sum: its fixed fields as one number, then the write data. -/
theorem packCommand_eq_add (r t w : Bool) (a : Addr) (d : Word) :
    packCommand r t w a d = packCommand r t w a 0 + d.setWidth 23 := by
  apply BitVec.eq_of_toNat_eq
  have hlt := (packCommand r t w a d).isLt
  rw [packCommand_toNat] at hlt
  rw [BitVec.toNat_add, packCommand_toNat, packCommand_toNat, BitVec.toNat_setWidth]
  simp only [BitVec.ofNat_eq_ofNat, BitVec.toNat_ofNat]
  omega

/-! ## Decoding a packed word (R64) -/

@[simp] theorem decodeCommand_pack (r t w : Bool) (a : Addr) (d : Word) :
    decodeCommand (packCommand r t w a d) =
      if r then [.reset]
      else if t then (if w then [.tick, decodeWrite a d] else [.tick])
      else (if w then [decodeWrite a d] else [.nop]) := by
  simp [decodeCommand]

theorem decodeCommand_encodeWrite (a : Addr) (d : Word) : decodeCommand (encodeWrite a d) = [decodeWrite a d] := by
  simp [encodeWrite]

/-- Bits 3:2 of an address are 0 for the four parameter registers only (R65). -/
theorem parameterAddr_iff (a : Addr) :
    a.extractLsb' 2 2 = 0#2 ↔ a = 0x0#4 ∨ a = 0x1#4 ∨ a = 0x2#4 ∨ a = 0x3#4 := by
  revert a
  decide

/-- The three rows of ignored writes, told apart by bits 3:2 of the address (R65). -/
theorem decodeWrite_ignored (a : Addr) (d : Word) (h : a.extractLsb' 2 2 ≠ 0#2) :
    decodeWrite a d =
      if a.extractLsb' 2 2 = 1#2 then .wrIgn4 a d
      else if a.extractLsb' 2 2 = 2#2 then .wrIgn8 a d
      else .wrIgnC a d := by
  simp only [ne_eq, parameterAddr_iff, not_or] at h
  obtain ⟨h0, h1, h2, h3⟩ := h
  simp only [decodeWrite, h0, h1, h2, h3, if_false]

/-- The round trip, row by row of R65. A write is `decodeWrite` of the address its row fixes; in a `WR_IGN` row the
well-formedness of the term is what selects that row again. -/
theorem decode_encode (i : Instr) (h : i.wellFormed = true) : decode (encode i) = [i] := by
  cases i with
  | reset => simp [encode, decode]
  | tick => simp [encode, decode]
  | wrPinc d => exact decodeCommand_encodeWrite 0x0#4 d
  | wrPmax d => exact decodeCommand_encodeWrite 0x1#4 d
  | wrGain d => exact decodeCommand_encodeWrite 0x2#4 d
  | wrOffs d => exact decodeCommand_encodeWrite 0x3#4 d
  | wrIgn4 a d =>
    have hrow : a.extractLsb' 2 2 = 1#2 := by simpa [Instr.wellFormed] using h
    rw [encode, decode, decodeCommand_encodeWrite, decodeWrite_ignored a d (by simp [hrow])]
    simp [hrow]
  | wrIgn8 a d =>
    have hrow : a.extractLsb' 2 2 = 2#2 := by simpa [Instr.wellFormed] using h
    rw [encode, decode, decodeCommand_encodeWrite, decodeWrite_ignored a d (by simp [hrow])]
    simp [hrow]
  | wrIgnC a d =>
    have hrow : a.extractLsb' 2 2 = 3#2 := by simpa [Instr.wellFormed] using h
    rw [encode, decode, decodeCommand_encodeWrite, decodeWrite_ignored a d (by simp [hrow])]
    simp [hrow]
  | nop => simp [encode, decode]
  | rd a => rfl

/-! ## The opcode table by fields (R65) -/

/-- A row of the table that fixes bits `m` of `RST`, `TICK`, `WE` and bits `ma` of `ADDR`. -/
def fieldRow (name : String) (m : BitVec 3) (ma : BitVec 4) (p : BitVec 3) (pa : BitVec 4) : OpcodeRow :=
  ⟨name, m ++ ma ++ 0#16, p ++ pa ++ 0#16⟩

/-- No row fixes a bit of `WDATA`. -/
theorem opcodeRows_eq_fieldRows :
    opcodeRows =
      [ fieldRow "RESET" 0b100 0 0b100 0, fieldRow "TICK" 0b110 0 0b010 0,
        fieldRow "WR_PINC" 0b101 0xF 0b001 0x0, fieldRow "WR_PMAX" 0b101 0xF 0b001 0x1,
        fieldRow "WR_GAIN" 0b101 0xF 0b001 0x2, fieldRow "WR_OFFS" 0b101 0xF 0b001 0x3,
        fieldRow "WR_IGN" 0b101 0xC 0b001 0x4, fieldRow "WR_IGN" 0b101 0xC 0b001 0x8,
        fieldRow "WR_IGN" 0b101 0xC 0b001 0xC, fieldRow "NOP" 0b111 0 0b000 0 ] := by
  decide

theorem control_and_addr_inj {c c' : BitVec 3} {a a' : BitVec 4} :
    c ++ a ++ 0#16 = c' ++ a' ++ 0#16 ↔ c = c' ∧ a = a' := by
  constructor
  · intro h
    have hnat := congrArg BitVec.toNat h
    simp only [toNat_append_eq_add] at hnat
    have ha := a.isLt
    have ha' := a'.isLt
    constructor <;> apply BitVec.eq_of_toNat_eq <;> omega
  · rintro ⟨rfl, rfl⟩
    rfl

theorem accepts_fieldRow (name : String) (m p : BitVec 3) (ma pa : BitVec 4) (r t w : Bool) (a : Addr) (d : Word) :
    (fieldRow name m ma p pa).accepts (packCommand r t w a d) =
      ((BitVec.ofBool r ++ BitVec.ofBool t ++ BitVec.ofBool w) &&& m == p && a &&& ma == pa) := by
  have hmasked : ∀ c : BitVec 3,
      ((c ++ a ++ d : BitVec (3 + 4 + 16)) &&& (m ++ ma ++ 0#16)) = (c &&& m) ++ (a &&& ma) ++ 0#16 := by
    intro c
    rw [BitVec.and_append, BitVec.and_append, BitVec.and_zero]
  have hpack : packCommand r t w a d &&& (m ++ ma ++ 0#16) = _ :=
    hmasked (BitVec.ofBool r ++ BitVec.ofBool t ++ BitVec.ofBool w)
  rw [Bool.eq_iff_iff]
  simp only [OpcodeRow.accepts, fieldRow, hpack, beq_iff_eq, Bool.and_eq_true]
  exact control_and_addr_inj

@[simp] theorem fieldRow_mnemonic (name : String) (m p : BitVec 3) (ma pa : BitVec 4) :
    (fieldRow name m ma p pa).mnemonic = name := rfl

/-- The names of the rows that accept a command word, in the order of the table. -/
def acceptingRows (w : Command) : List String := (opcodeRows.filter (·.accepts w)).map OpcodeRow.mnemonic

/-- `RST = 1` matches the first row only: every other row fixes `RST = 0`. -/
theorem acceptingRows_reset (t w : Bool) (a : Addr) (d : Word) :
    acceptingRows (packCommand true t w a d) = ["RESET"] := by
  cases t <;> cases w <;> simp [acceptingRows, opcodeRows_eq_fieldRows, accepts_fieldRow]

/-- With `WE = 0` no row of a write matches, whatever the address field holds. -/
theorem acceptingRows_noWrite (t : Bool) (a : Addr) (d : Word) :
    acceptingRows (packCommand false t false a d) = [if t then "TICK" else "NOP"] := by
  cases t <;> simp [acceptingRows, opcodeRows_eq_fieldRows, accepts_fieldRow]

/-- The mask of a `WR_IGN` row keeps bits 3:2 of the address. -/
theorem and_ignoredMask (a : Addr) : a &&& 0xC#4 = a.extractLsb' 2 2 ++ 0#2 := by
  revert a
  decide

/-- A write to an address with `a[3:2] ≠ 0` matches one `WR_IGN` row, and `TICK` beside it where asked. -/
theorem acceptingRows_ignored (t : Bool) (a : Addr) (d : Word) (h : a.extractLsb' 2 2 ≠ 0#2) :
    acceptingRows (packCommand false t true a d) = (if t then ["TICK"] else []) ++ ["WR_IGN"] := by
  have hfull : a &&& 0xF#4 = a := BitVec.and_allOnes
  have hrow : ∀ k : BitVec 2, k ≠ 0#2 → k = 1#2 ∨ k = 2#2 ∨ k = 3#2 := by decide
  obtain ⟨h0, h1, h2, h3⟩ : a ≠ 0x0#4 ∧ a ≠ 0x1#4 ∧ a ≠ 0x2#4 ∧ a ≠ 0x3#4 := by
    simpa only [ne_eq, parameterAddr_iff, not_or] using h
  rcases hrow _ h with hk | hk | hk <;> cases t <;>
    simp [acceptingRows, opcodeRows_eq_fieldRows, accepts_fieldRow, hfull, and_ignoredMask, hk, h0, h1, h2, h3]

theorem acceptingRows_write (t : Bool) (a : Addr) (d : Word) :
    acceptingRows (packCommand false t true a d) =
      (if t then ["TICK"] else []) ++ [(decodeWrite a d).mnemonic] := by
  by_cases h : a.extractLsb' 2 2 = 0#2
  · rcases (parameterAddr_iff a).mp h with rfl | rfl | rfl | rfl <;> cases t <;>
      simp [acceptingRows, opcodeRows_eq_fieldRows, accepts_fieldRow, decodeWrite, Instr.mnemonic]
  · have hname : (decodeWrite a d).mnemonic = "WR_IGN" := by
      rw [decodeWrite_ignored a d h]
      split_ifs <;> rfl
    rw [hname, acceptingRows_ignored t a d h]

/-- The table and the decoder name the same operations in the same order (R65). -/
theorem acceptingRows_eq_decodeCommand (w : Command) :
    acceptingRows w = (decodeCommand w).map Instr.mnemonic := by
  rw [← packCommand_fields w, decodeCommand_pack]
  cases cmdRst w with
  | true => exact acceptingRows_reset _ _ _ _
  | false =>
    cases cmdWe w with
    | false =>
      rw [acceptingRows_noWrite]
      cases cmdTick w <;> rfl
    | true =>
      rw [acceptingRows_write]
      cases cmdTick w <;> rfl

/-! ## The canonical words as numbers (R65) -/

theorem encodeWrite_eq_add (a : Addr) (d : Word) : encodeWrite a d = encodeWrite a 0 + d.setWidth 23 :=
  packCommand_eq_add false false true a d

theorem encode_parameterWrites (d : Word) :
    encode (.wrPinc d) = .command (0x100000#23 + d.setWidth 23) ∧
    encode (.wrPmax d) = .command (0x110000#23 + d.setWidth 23) ∧
    encode (.wrGain d) = .command (0x120000#23 + d.setWidth 23) ∧
    encode (.wrOffs d) = .command (0x130000#23 + d.setWidth 23) := by
  refine ⟨?_, ?_, ?_, ?_⟩ <;> exact congrArg Encoded.command (encodeWrite_eq_add _ d)

/-- The word of a shared cycle is the bitwise or of its two words: `TICK` beside the write. -/
theorem commandOf_tick_or_wrGain (d : Word) :
    commandOf .tick ||| commandOf (.wrGain d) = 0x320000#23 + d.setWidth 23 := by
  calc commandOf .tick ||| commandOf (.wrGain d)
      = packCommand false true false 0 0 ||| packCommand false false true 0x2#4 d := rfl
    _ = packCommand false true true 0x2#4 d := by rw [packCommand_or]; simp
    _ = 0x320000#23 + d.setWidth 23 := packCommand_eq_add false true true 0x2#4 d

end Sys2Proof

section
open Sys2Proof

/-- Settles O1: the round trip of every row is `decode_encode`. -/
theorem decodeInvertsEncode : Obligations.DecodeInvertsEncode := decode_encode

/-- Settles O4: the table written out in the statement is `opcodeRows`, whose accepting rows are those of
`acceptingRows_eq_decodeCommand`; the canonical words are sums of their fields. -/
theorem decodeAgreesWithOpcodeTable : Obligations.DecodeAgreesWithOpcodeTable := by
  refine ⟨fun w => ?_, fun _ => rfl, rfl, rfl, rfl, fun d => ?_⟩
  · rw [← acceptingRows_eq_decodeCommand w]
    show List.map _ (List.filter _ (opcodeRows.map fun r => (r.mnemonic, r.mask, r.pattern))) = _
    rw [List.filter_map, List.map_map]
    rfl
  · obtain ⟨hpinc, hpmax, hgain, hoffs⟩ := encode_parameterWrites d
    exact ⟨hpinc, hpmax, hgain, hoffs, commandOf_tick_or_wrGain d⟩

end
end

section
/-!
PROOFS. What one cycle does (30_encoding.md R62, R64; 44_dac_output_dispatch.md R134): the operations of a command
word as one function of the state, the output pins the cycle drives and the events it records.
-/

namespace Sys2Proof.Machine

/-! ## What the host's operations answer -/

@[simp] theorem exec_nop (s : State) : exec .nop s = .next s.holdPins := rfl

@[simp] theorem exec_rd (a : Addr) (s : State) : exec (.rd a) s = .next (s.driveRdata (regRead s.regs a)) := rfl

/-- Whatever its row, the write a command word decodes to is `RegWrite` of its address and data. -/
@[simp] theorem exec_decodeWrite (a : Addr) (d : Word) (s : State) :
    exec (decodeWrite a d) s = .next (s.regWrite a d) := by
  rcases decodeWrite_cases a d with
    ⟨rfl, h⟩ | ⟨rfl, h⟩ | ⟨rfl, h⟩ | ⟨rfl, h⟩ | ⟨-, h⟩ | ⟨-, h⟩ | ⟨-, h⟩ <;> rw [h] <;> rfl

@[simp] theorem regWrite_pins (s : State) (a : Addr) (d : Word) : (s.regWrite a d).pins = s.pins := by
  obtain ⟨h, -⟩ := regWrite_frame s a d
  exact h

@[simp] theorem regWrite_events (s : State) (a : Addr) (d : Word) : (s.regWrite a d).events = s.events := by
  obtain ⟨-, h, -⟩ := regWrite_frame s a d
  exact h

/-! ## The operations of a command word, together (R64) -/

/-- What the fields of a command word do to the state: lines 2 to 5 of R64. -/
def commandEffect (rst tk we : Bool) (a : Addr) (d : Word) (s : State) : State :=
  if rst then s.holdPins.clearRegs
  else if tk then
    if we then (dispatchSamples hardwareConfig s).regWrite a d else dispatchSamples hardwareConfig s
  else
    if we then s.regWrite a d else s.holdPins

theorem runOps_decodeCommand (rst tk we : Bool) (a : Addr) (d : Word) (s : State) :
    runOps (decodeCommand (packCommand rst tk we a d)) s = .next (commandEffect rst tk we a d s) := by
  rw [decodeCommand_pack, commandEffect]
  cases rst <;> cases tk <;> cases we <;> simp [runOps_cons_next]

/-- A step on a presented input vector: the read, the command word's operations, then TIMER's bit. -/
theorem step_presented (s : State) (rst tk we : Bool) (a : Addr) (d : Word) (r : ReadWord)
    (h : nextInput s = { command := packCommand rst tk we a d, read := r }) :
    step s = .next (noteTimer { command := packCommand rst tk we a d, read := r }
      (commandEffect rst tk we a d ((beginCycle s).driveRdata (regRead s.regs r)))) := by
  refine (step_next _ _).mpr ⟨_, ?_, by rw [h]⟩
  rw [h, cycleOps, decodeRead]
  exact (runOps_cons_next _ _ _ _).mpr ⟨_, exec_rd r (beginCycle s), runOps_decodeCommand rst tk we a d _⟩

/-- Events are recorded by `TICK` alone, and `RST = 1` shuts it out (R134). -/
theorem commandEffect_events (rst tk we : Bool) (a : Addr) (d : Word) (s : State) :
    (commandEffect rst tk we a d s).events =
      s.events ++
        (if !rst && tk then
          [.dacWrite .ch1 (dacMap hardwareConfig s.regs.sample1), .dacWrite .ch2 (dacMap hardwareConfig s.regs.sample2),
           .dacWrite .ch3 (dacMap hardwareConfig s.regs.sample3), .ack]
         else []) := by
  cases rst <;> cases tk <;> cases we <;> simp [commandEffect]

/-- Only a serviced `TICK` moves the pins away from the values of a cycle without a tick (R62). -/
theorem commandEffect_pins (rst tk we : Bool) (a : Addr) (d : Word) (s : State) (h : s.holdPins.pins = s.pins) :
    (commandEffect rst tk we a d s).pins =
      if !rst && tk then
        { s.pins with
          tickAck := true
          dacWe := true
          dac1 := dacMap hardwareConfig s.regs.sample1
          dac2 := dacMap hardwareConfig s.regs.sample2
          dac3 := dacMap hardwareConfig s.regs.sample3 }
      else s.pins := by
  cases rst <;> cases tk <;> cases we <;> simp [commandEffect, h, -State.holdPins_pins]

/-! ## The DAC's code (R130) -/

/-- Flipping the sign bit adds the midscale bias: the bits below it stay, the top bit changes. -/
theorem toNat_xor_signBit (v : Word) : ((v ^^^ 0x8000#16).toNat : Int) = sint v + 32768 := by
  have hlt := v.isLt
  have hxor : (v ^^^ 0x8000#16).toNat = v.toNat ^^^ 32768 := BitVec.toNat_xor v 0x8000#16
  have hlow : (v.toNat ^^^ 32768) % 2 ^ 15 = v.toNat % 2 ^ 15 :=
    Nat.xor_mod_two_pow.trans (Nat.xor_zero _)
  have hhigh : (v.toNat ^^^ 32768) / 2 ^ 15 = (v.toNat / 2 ^ 15) ^^^ 1 := Nat.xor_div_two_pow
  rw [sint_eq_uint, uint, hxor]
  rcases (by omega : v.toNat / 2 ^ 15 = 0 ∨ v.toNat / 2 ^ 15 = 1) with htop | htop
  · rw [htop, Nat.zero_xor] at hhigh
    rw [if_pos (by omega)]
    omega
  · rw [htop, Nat.xor_self] at hhigh
    rw [if_neg (by omega)]
    omega

/-- On this hardware `MAP` inverts the sign bit and keeps the upper twelve bits. -/
theorem dacMap_hardware_eq_xor (v : Word) : dacMap hardwareConfig v = (v ^^^ 0x8000#16) >>> 4 := by
  rw [dacMap_hardware, ← toNat_xor_signBit, eq_comm, word_eq_iff, uint, BitVec.toNat_ushiftRight,
    Nat.shiftRight_eq_div_pow]
  have hlt := (v ^^^ 0x8000#16).isLt
  omega

end Sys2Proof.Machine

section
open Sys2Proof Sys2Proof.Machine

/-- Settles O12: the step is `step_presented`; the pins start as those of a cycle without a tick, so
`commandEffect_pins` and `commandEffect_events` say what the command word adds to them and to the history. -/
theorem outputPinsAndEventsOfACycle : Obligations.OutputPinsAndEventsOfACycle := by
  intro s rst tk we a d r rest serviced code
  have hcode : ∀ v, dacMap hardwareConfig v = code v := dacMap_hardware_eq_xor
  refine ⟨_, step_presented _ rst tk we a d r rfl, ?_, ?_⟩
  · rw [noteTimer_pins, commandEffect_pins _ _ _ _ _ _ rfl]
    cases rst <;> cases tk <;> simp [hcode, serviced]
  · rw [noteTimer_events, commandEffect_events]
    simp [hcode, serviced]

end
end

section
/-!
PROOFS. The step and the phase (40_phase_accumulator.md R80 to R82, R84): the step as the floor of a product that fits
32 bits, the accumulation by the fields of a phase, and the phase after a run of ticks with unchanged parameters.
-/

namespace Sys2Proof.Machine

/-! ## The product of PINC and PMAX, and its quotient (R80) -/

/-- The step is the floor of the product by 32768, as a word. -/
theorem phaseStep_eq_word (pinc pmax : Word) : phaseStep pinc pmax = word (sint pinc * uint pmax / 32768) := by
  rw [phaseStep, floorShift_15]

theorem product_nonneg_bounds {pinc : Word} (pmax : Word) (h : 0 ≤ sint pinc) :
    0 ≤ sint pinc * uint pmax ∧ sint pinc * uint pmax ≤ 32767 * uint pmax := by
  obtain ⟨-, hhigh⟩ := sint_bounds pinc
  exact ⟨Int.mul_nonneg h (uint_nonneg pmax), Int.mul_le_mul_of_nonneg_right hhigh (uint_nonneg pmax)⟩

theorem product_neg_bounds {pinc : Word} (pmax : Word) (h : sint pinc < 0) :
    -32768 * uint pmax ≤ sint pinc * uint pmax ∧ sint pinc * uint pmax ≤ -1 * uint pmax := by
  obtain ⟨hlow, -⟩ := sint_bounds pinc
  exact ⟨Int.mul_le_mul_of_nonneg_right hlow (uint_nonneg pmax),
    Int.mul_le_mul_of_nonneg_right (by omega) (uint_nonneg pmax)⟩

theorem product_bounds (pinc pmax : Word) :
    sint pinc * uint pmax ≤ 2147385345 ∧ -2147450880 ≤ sint pinc * uint pmax := by
  have hnonneg := uint_nonneg pmax
  have hlt := uint_lt pmax
  rcases lt_or_ge (sint pinc) 0 with h | h
  · obtain ⟨hlow, hhigh⟩ := product_neg_bounds pmax h
    omega
  · obtain ⟨hlow, hhigh⟩ := product_nonneg_bounds pmax h
    omega

/-- The quotient by 32768 as a word is bits 30:15 of the two's-complement pattern. -/
theorem word_div_eq_extractLsb' (n : Int) : word (n / 32768) = (BitVec.ofInt 32 n).extractLsb' 15 16 := by
  rw [eq_comm, word_eq_iff, uint, BitVec.extractLsb'_toNat, BitVec.toNat_ofInt, Nat.shiftRight_eq_div_pow]
  omega

/-- For a non-negative `PINC` the quotient is a word already: nothing wraps. -/
theorem uint_phaseStep_of_nonneg {pinc : Word} (pmax : Word) (h : 0 ≤ sint pinc) :
    uint (phaseStep pinc pmax) = sint pinc * uint pmax / 32768 := by
  obtain ⟨hlow, hhigh⟩ := product_nonneg_bounds pmax h
  have hlt := uint_lt pmax
  rw [phaseStep_eq_word, uint_word]
  omega

theorem quotient_le (pinc pmax : Word) : sint pinc * uint pmax / 32768 ≤ 65533 := by
  obtain ⟨hmax, -⟩ := product_bounds pinc pmax
  omega

/-- A negative `PINC` with a non-zero `PMAX` has a quotient in -65535..-1. -/
theorem quotient_neg_bounds {pinc pmax : Word} (h : sint pinc < 0) (hpmax : uint pmax ≠ 0) :
    -65535 ≤ sint pinc * uint pmax / 32768 ∧ sint pinc * uint pmax / 32768 ≤ -1 := by
  obtain ⟨hlow, hhigh⟩ := product_neg_bounds pmax h
  have hnonneg := uint_nonneg pmax
  have hlt := uint_lt pmax
  omega

theorem uint_phaseStep_of_neg {pinc pmax : Word} (h : sint pinc < 0) (hpmax : uint pmax ≠ 0) :
    uint (phaseStep pinc pmax) = 65536 + sint pinc * uint pmax / 32768 := by
  obtain ⟨hlow, hhigh⟩ := quotient_neg_bounds h hpmax
  rw [phaseStep_eq_word, uint_word]
  omega

theorem uint_ne_zero {v : Word} (h : v ≠ 0#16) : uint v ≠ 0 := by
  rw [← word_uint v, ← word_zero] at h
  exact fun hzero => h (congrArg word hzero)

/-! ## The ceiling (R82) -/

/-- The largest step of a non-negative `PINC` is that of 32767. -/
theorem uint_phaseStep_le_floor {pinc : Word} (pmax : Word) (h : 0 ≤ sint pinc) :
    uint (phaseStep pinc pmax) ≤ 32767 * uint pmax / 32768 := by
  obtain ⟨-, hhigh⟩ := product_nonneg_bounds pmax h
  rw [uint_phaseStep_of_nonneg pmax h]
  exact Int.ediv_le_ediv (by decide) hhigh

theorem uint_phaseStep_maxPinc (pmax : Word) : uint (phaseStep 0x7FFF#16 pmax) = 32767 * uint pmax / 32768 :=
  uint_phaseStep_of_nonneg pmax (by decide)

/-! ## The accumulation (R81) -/

theorem toNat_accumulate (phase step : Word) :
    (accumulate phase step).toNat = (phase.toNat + step.toNat) % 65536 := by
  have h := uint_word (uint phase + uint step)
  simp only [uint] at h
  rw [accumulate]
  simp only [uint]
  omega

theorem toNat_lowByte (v : Word) : (v.extractLsb' 0 8).toNat = v.toNat % 256 := by
  rw [BitVec.extractLsb'_toNat, Nat.shiftRight_zero]

theorem toNat_highByte (v : Word) : (v.extractLsb' 8 8).toNat = v.toNat / 256 := by
  have hlt := v.isLt
  rw [BitVec.extractLsb'_toNat, Nat.shiftRight_eq_div_pow]
  omega

/-- A step more after `word p`: accumulation is addition of integers under `word`. -/
theorem accumulate_word (p : Int) (step : Word) : accumulate (word p) step = word (p + uint step) := by
  rw [accumulate, uint_word]
  exact word_congr (by omega)

/-! ## A run of ticks with unchanged parameters (R84) -/

/-- The input vector of a cycle that presents a tick and nothing else. -/
def tickInput : Input := { command := 0x200000#23, read := 0 }

theorem step_tickInput (s : State) (rest : List Input) (h : s.inputs = tickInput :: rest) :
    ∃ t, step s = .next t ∧ t.regs = (dispatchSamples hardwareConfig s).regs ∧ t.inputs = rest := by
  refine ⟨_, step_presented s false true false 0 0 0 (nextInput_cons s tickInput rest h), ?_, ?_⟩
  · simp [commandEffect, nextPhase]
  · simp [commandEffect, h]

/-- What a tick with the parameters of `r₀` leaves in the generator's registers at phase `p`; `DACLAST1..3` stay
open, since they hold the codes of the tick before. -/
structure GeneratorAt (r₀ : Regs) (p : Word) (r : Regs) : Prop where
  pinc : r.pinc = r₀.pinc
  pmax : r.pmax = r₀.pmax
  gain : r.gain = r₀.gain
  offs : r.offs = r₀.offs
  phase : r.phase = p
  sample1 : r.sample1 = laneSample hardwareConfig r₀.gain r₀.offs .ch1 p
  sample2 : r.sample2 = laneSample hardwareConfig r₀.gain r₀.offs .ch2 p
  sample3 : r.sample3 = laneSample hardwareConfig r₀.gain r₀.offs .ch3 p

/-- From any state, the first tick already leaves the samples of its own phase. -/
theorem exec_tick_generatorAt (s : State) :
    ∃ s1, exec .tick s = .next s1 ∧ GeneratorAt s.regs s1.regs.phase s1.regs := by
  refine ⟨_, exec_tick s, ?_⟩
  rw [dispatchSamples_regs]
  constructor <;> rfl

/-- A tick reads of the generator's registers only the parameters and the phase. -/
theorem GeneratorAt.tick {r₀ : Regs} {p : Word} {s : State} (h : GeneratorAt r₀ p s.regs) :
    GeneratorAt r₀ (accumulate p (phaseStep r₀.pinc r₀.pmax)) (dispatchSamples hardwareConfig s).regs := by
  have hnext : nextPhase s.regs = accumulate p (phaseStep r₀.pinc r₀.pmax) := by
    rw [nextPhase, h.phase, h.pinc, h.pmax]
  rw [dispatchSamples_regs, hnext]
  constructor <;> simp [h.pinc, h.pmax, h.gain, h.offs]

/-- `n` ticks add the step `n` times, and every one of them leaves the samples of its own phase. -/
theorem run_ticks {r₀ : Regs} (rest : List Input) (n : Nat) (p : Int) (s : State) (h : GeneratorAt r₀ (word p) s.regs)
    (hinputs : s.inputs = List.replicate n tickInput ++ rest) :
    ∃ t, Sys2Proof.core.run n s = .next t ∧
      GeneratorAt r₀ (word (p + n * uint (phaseStep r₀.pinc r₀.pmax))) t.regs ∧ t.inputs = rest := by
  induction n generalizing p s with
  | zero => exact ⟨s, rfl, by simpa using h, by simpa using hinputs⟩
  | succ n ih =>
    obtain ⟨u, hstep, hregs, hrest⟩ := step_tickInput s (List.replicate n tickInput ++ rest) hinputs
    have htick := h.tick
    rw [← hregs, accumulate_word] at htick
    obtain ⟨t, hrun, hgen, hleft⟩ := ih _ u htick hrest
    refine ⟨t, (core_run_succ n s u hstep).trans hrun, ?_, hleft⟩
    rwa [Nat.cast_succ, add_mul, one_mul, add_comm (_ * _), ← add_assoc]

/-- A sum of words returns to its first term exactly when the rest is whole turns of the circle. -/
theorem word_uint_add_eq_iff (v : Word) (k : Nat) : word (uint v + k) = v ↔ 65536 ∣ k := by
  have hlt := uint_lt v
  have hnonneg := uint_nonneg v
  rw [eq_comm, word_eq_iff]
  omega

/-- The period of the phase: `n` steps are whole turns exactly when `n` is a multiple of it. -/
theorem period_dvd_iff (step n : Nat) : 65536 / Nat.gcd step 65536 ∣ n ↔ 65536 ∣ n * step := by
  rw [Nat.div_dvd_iff_dvd_mul (Nat.gcd_dvd_right step 65536) (Nat.gcd_pos_of_pos_right step (by decide)),
    Nat.gcd_comm, Nat.dvd_gcd_mul_iff_dvd_mul, Nat.mul_comm]

end Sys2Proof.Machine

section
open Sys2Proof Sys2Proof.Machine

/-- Settles O26: the quotient's range in each sign of `PINC` says whether the 16-bit word wraps. -/
theorem stepIsProductBits30To15 : Obligations.StepIsProductBits30To15 := by
  intro pinc pmax P
  obtain ⟨hmax, hmin⟩ := product_bounds pinc pmax
  refine ⟨hmax, hmin, ?_, fun hpinc => ?_, fun ⟨hpinc, hpmax⟩ => ?_, ?_⟩
  · rw [phaseStep_eq_word]
    exact word_div_eq_extractLsb' P
  · exact ⟨uint_phaseStep_of_nonneg pmax hpinc, quotient_le pinc pmax⟩
  · have hne := uint_ne_zero hpmax
    exact ⟨uint_phaseStep_of_neg hpinc hne, quotient_neg_bounds hpinc hne⟩
  · rintro (rfl | rfl)
    · exact phaseStep_pinc_zero pmax
    · exact phaseStep_pmax_zero pinc

/-- Settles O27: both bytes of the sum are read off `toNat_accumulate`; the carry is the low bytes' overflow. -/
theorem accumulateByFields : Obligations.AccumulateByFields := by
  intro phase step f carry
  have hf : f = phase.toNat % 256 + step.toNat % 256 := by simp only [f, toNat_lowByte]
  have hcarry : carry = f / 256 := by
    simp only [carry]
    split_ifs <;> omega
  refine ⟨toNat_accumulate phase step, ?_, ?_⟩
  · rw [toNat_lowByte, toNat_accumulate]
    omega
  · rw [toNat_highByte, toNat_highByte, toNat_highByte, toNat_accumulate]
    omega

/-- Settles O28: the step is at most `32767 * PMAX / 32768`, with equality at `PINC = 0x7FFF`, and that floor is `PMAX`
less one for each 32768 begun. -/
theorem stepStaysBelowCeiling : Obligations.StepStaysBelowCeiling := by
  refine ⟨fun pinc pmax hpinc => ?_, fun pmax hlow hhigh => ?_, fun pmax hlow => ?_⟩
  · have hle := uint_phaseStep_le_floor pmax hpinc
    rw [uint_eq, uint_eq] at hle
    refine ⟨by omega, fun hpmax => ?_⟩
    have hne := uint_ne_zero hpmax
    rw [uint_eq] at hne
    omega
  · have hmax := uint_phaseStep_maxPinc pmax
    rw [uint_eq, uint_eq] at hmax
    omega
  · have hmax := uint_phaseStep_maxPinc pmax
    have hlt := pmax.isLt
    rw [uint_eq, uint_eq] at hmax
    omega

/-- Settles O30: the first tick leaves `GeneratorAt` its phase, `run_ticks` carries it to the last one, and equal
phases have equal samples; the period is that of `period_dvd_iff`. -/
theorem ticksArePeriodic : Obligations.TicksArePeriodic := by
  intro n s rest step period
  obtain ⟨s1, htick, hfirst⟩ := exec_tick_generatorAt s
  obtain ⟨t, hrun, hlast, hrest⟩ :=
    run_ticks rest n (uint s1.regs.phase) { s1 with inputs := List.replicate n tickInput ++ rest }
      (by rwa [word_uint]) rfl
  have hsum : uint s1.regs.phase + n * uint (phaseStep s.regs.pinc s.regs.pmax) =
      uint s1.regs.phase + (n * step : Nat) := by
    rw [Nat.cast_mul, uint_eq (phaseStep _ _)]
  rw [hsum] at hlast
  have hreturn : word (uint s1.regs.phase + (n * step : Nat)) = s1.regs.phase ↔ period ∣ n :=
    (word_uint_add_eq_iff _ _).trans (period_dvd_iff step n).symm
  refine ⟨s1, t, htick, hrun, ?_, by rwa [hlast.phase], fun hperiod => ?_, hrest⟩
  · rw [hlast.phase, uint_eq, ← Nat.cast_add, word, BitVec.ofInt_natCast]
  · rw [hreturn.mpr hperiod] at hlast
    exact ⟨hlast.sample1.trans hfirst.sample1.symm, hlast.sample2.trans hfirst.sample2.symm,
      hlast.sample3.trans hfirst.sample3.symm⟩

end
end

section
/-!
PROOFS. The sine lookup (41_sine_interpolator.md R91 to R93): the table against the real sine, by a Taylor polynomial
evaluated in the rationals, and the blend of two neighbouring entries.
-/

namespace Sys2Proof.Machine

/-! ## The real sine and its Taylor polynomial -/

/-- The first `n` terms of the sine's Taylor series at 0, over the rationals, where they can be evaluated. -/
def sinTaylor (n : ℕ) (x : ℚ) : ℚ :=
  ∑ j ∈ Finset.range n, (-1) ^ j * x ^ (2 * j + 1) / ((2 * j + 1).factorial : ℚ)

/-- The imaginary part of the exponential series at `x * I`, cut after an even number of terms. -/
theorem im_sum_exp_series (n : ℕ) (x : ℚ) :
    (∑ m ∈ Finset.range (2 * n), ((x : ℂ) * Complex.I) ^ m / (m.factorial : ℂ)).im = (sinTaylor n x : ℝ) := by
  induction n with
  | zero => simp [sinTaylor]
  | succ n ih =>
    have heven : (((x : ℂ) * Complex.I) ^ (2 * n) / ((2 * n).factorial : ℂ)) =
        (((-1) ^ n * x ^ (2 * n) / ((2 * n).factorial : ℝ) : ℝ) : ℂ) := by
      rw [mul_pow, pow_mul Complex.I, Complex.I_sq]
      push_cast
      ring
    have hodd : (((x : ℂ) * Complex.I) ^ (2 * n + 1) / ((2 * n + 1).factorial : ℂ)) =
        (((-1) ^ n * x ^ (2 * n + 1) / ((2 * n + 1).factorial : ℝ) : ℝ) : ℂ) * Complex.I := by
      rw [mul_pow, pow_succ Complex.I, pow_mul Complex.I, Complex.I_sq]
      push_cast
      ring
    rw [Nat.mul_succ, Finset.sum_range_succ, Finset.sum_range_succ, heven, hodd, Complex.add_im, Complex.add_im, ih,
      Complex.ofReal_im, Complex.im_ofReal_mul, Complex.I_im, sinTaylor, sinTaylor, Finset.sum_range_succ]
    push_cast
    ring

/-- The distance of the Taylor polynomial from the sine is at most twice the first term of the exponential series that
is left out. -/
theorem abs_sin_sub_sinTaylor_le {n : ℕ} {x : ℚ} (h : |(x : ℝ)| ≤ n) :
    |Real.sin x - sinTaylor n x| ≤ |(x : ℝ)| ^ (2 * n) / ((2 * n).factorial : ℝ) * 2 := by
  have hnorm : ‖(x : ℂ) * Complex.I‖ = |(x : ℝ)| := by simp
  have hsmall : ‖(x : ℂ) * Complex.I‖ / (2 * n).succ ≤ 1 / 2 := by
    rw [hnorm, div_le_iff₀ (by positivity)]
    push_cast
    linarith
  have hexp : (Complex.exp ((x : ℂ) * Complex.I)).im = Real.sin x := by
    exact_mod_cast Complex.exp_ofReal_mul_I_im x
  calc |Real.sin x - sinTaylor n x|
      = |(Complex.exp ((x : ℂ) * Complex.I) -
          ∑ m ∈ Finset.range (2 * n), ((x : ℂ) * Complex.I) ^ m / (m.factorial : ℂ)).im| := by
        rw [Complex.sub_im, hexp, im_sum_exp_series]
    _ ≤ _ := Complex.abs_im_le_norm _
    _ ≤ _ := hnorm ▸ Complex.exp_bound' hsmall

/-! ## The table of R91 -/

/-- `2*pi*k/256` with the first twenty decimals of pi. -/
def rationalAngle (k : BitVec 8) : ℚ := 2 * 3.14159265358979323846 * k.toNat / 256

theorem rationalAngle_bounds (k : BitVec 8) : 0 ≤ rationalAngle k ∧ rationalAngle k ≤ 7 := by
  have hk : (k.toNat : ℚ) ≤ 256 := by exact_mod_cast k.isLt.le
  unfold rationalAngle
  constructor
  · positivity
  · linarith

theorem abs_angle_sub_rationalAngle_le (k : BitVec 8) :
    |2 * Real.pi * (k.toNat : ℝ) / 256 - rationalAngle k| ≤ 1e-8 := by
  have hk : (k.toNat : ℝ) ≤ 256 := by exact_mod_cast k.isLt.le
  have hlow := Real.pi_gt_d20
  have hhigh := Real.pi_lt_d20
  have hsplit : 2 * Real.pi * (k.toNat : ℝ) / 256 - rationalAngle k =
      (Real.pi - 3.14159265358979323846) * (k.toNat / 128) := by
    unfold rationalAngle
    push_cast
    ring
  have herror : (0 : ℝ) ≤ Real.pi - 3.14159265358979323846 := by linarith
  rw [hsplit, abs_of_nonneg (by positivity)]
  calc (Real.pi - 3.14159265358979323846) * (k.toNat / 128 : ℝ) ≤ 1e-9 * 2 := by
        gcongr <;> linarith
    _ ≤ 1e-8 := by norm_num

/-- Sixteen terms are enough for the whole circle, so no symmetry of the sine is needed. -/
theorem abs_sin_sub_sinTaylor_rationalAngle_le (k : BitVec 8) :
    |Real.sin (2 * Real.pi * (k.toNat : ℝ) / 256) - sinTaylor 16 (rationalAngle k)| ≤ 2e-8 := by
  obtain ⟨h0, h7⟩ := rationalAngle_bounds k
  have habs : |(rationalAngle k : ℝ)| ≤ 7 := by
    rw [abs_of_nonneg (by exact_mod_cast h0)]
    exact_mod_cast h7
  have hangle := (Real.abs_sin_sub_sin_le _ _).trans (abs_angle_sub_rationalAngle_le k)
  have htaylor : |Real.sin (rationalAngle k) - sinTaylor 16 (rationalAngle k)| ≤ 1e-8 :=
    calc _ ≤ |(rationalAngle k : ℝ)| ^ 32 / ((32).factorial : ℝ) * 2 :=
          abs_sin_sub_sinTaylor_le (habs.trans (by norm_num))
      _ ≤ 7 ^ 32 / ((32).factorial : ℝ) * 2 := by gcongr
      _ ≤ 1e-8 := by norm_num [Nat.factorial]
  calc _ ≤ _ := abs_sub_le _ (Real.sin (rationalAngle k)) _
    _ ≤ 1e-8 + 1e-8 := add_le_add hangle htaylor
    _ = 2e-8 := by norm_num

/-- The table against the polynomial, entry by entry; the closest entry to a tie keeps 0.007 from it. -/
theorem abs_rom_sub_sinTaylor_lt (k : BitVec 8) :
    |(rom hardwareConfig k : ℚ) - 32767 * sinTaylor 16 (rationalAngle k)| < 499 / 1000 := by
  revert k
  decide +kernel

theorem abs_rom_sub_sin_lt (k : BitVec 8) :
    |((rom hardwareConfig k : Int) : ℝ) - 32767 * Real.sin (2 * Real.pi * (k.toNat : ℝ) / 256)| < 1 / 2 := by
  have htable : |(rom hardwareConfig k : ℝ) - 32767 * sinTaylor 16 (rationalAngle k)| < 499 / 1000 := by
    have hcast := (Rat.cast_lt (K := ℝ)).mpr (abs_rom_sub_sinTaylor_lt k)
    push_cast at hcast
    exact hcast
  have hsine := abs_sin_sub_sinTaylor_rationalAngle_le k
  rw [abs_lt] at htable ⊢
  rw [abs_le] at hsine
  constructor <;> linarith

/-- No entry exceeds the sine's amplitude: it is an integer less than one half beyond it. -/
theorem rom_hardware_bounds (k : BitVec 8) : -32767 ≤ rom hardwareConfig k ∧ rom hardwareConfig k ≤ 32767 := by
  obtain ⟨hlow, hhigh⟩ := abs_lt.mp (abs_rom_sub_sin_lt k)
  have hsin := Real.sin_le_one (2 * Real.pi * (k.toNat : ℝ) / 256)
  have hsin' := Real.neg_one_le_sin (2 * Real.pi * (k.toNat : ℝ) / 256)
  have hupper : (rom hardwareConfig k : ℝ) < (32768 : Int) := by push_cast; linarith
  have hlower : ((-32768 : Int) : ℝ) < rom hardwareConfig k := by push_cast; linarith
  rw [Int.cast_lt] at hupper hlower
  omega

/-! ## The two lookups (R92, R93) -/

theorem sine_plain (c : Config) (h : c.interp = false) (a : Word) : sine c a = rom c (phaseIndex a) := by
  simp [sine, h]

theorem phaseIndex_append (i f : BitVec 8) : phaseIndex (i ++ f : BitVec (8 + 8)) = i := by
  apply BitVec.eq_of_toNat_eq
  have hf := f.isLt
  rw [phaseIndex, toNat_highByte, toNat_append_eq_add]
  omega

/-- The floor of a proper fraction of `d` lies between 0 and `d`. -/
theorem mul_ediv_256_bounds (d : Int) {f : Nat} (h : f < 256) : min 0 d ≤ d * f / 256 ∧ d * f / 256 ≤ max 0 d := by
  rcases le_total 0 d with hd | hd
  · have hlow : 0 ≤ d * f := by positivity
    have hhigh : d * f ≤ d * 256 := Int.mul_le_mul_of_nonneg_left (by omega) hd
    omega
  · have hlow : d * 256 ≤ d * f := Int.mul_le_mul_of_nonpos_left hd (by omega)
    have hhigh : d * f ≤ 0 := Int.mul_nonpos_of_nonpos_of_nonneg hd (by omega)
    omega

/-- The blend lies between the two entries whatever the table. -/
theorem sine_between (c : Config) (h : c.interp = true) (a : Word) :
    min (rom c (phaseIndex a)) (rom c (phaseIndex a + 1)) ≤ sine c a ∧
      sine c a ≤ max (rom c (phaseIndex a)) (rom c (phaseIndex a + 1)) := by
  obtain ⟨hlow, hhigh⟩ := mul_ediv_256_bounds (rom c (phaseIndex a + 1) - rom c (phaseIndex a)) (phaseFrac a).isLt
  rw [sine_interpolated c h]
  omega

theorem sine_hardware_bounds (a : Word) : -32767 ≤ sine hardwareConfig a ∧ sine hardwareConfig a ≤ 32767 := by
  obtain ⟨hlow, hhigh⟩ := sine_between hardwareConfig rfl a
  have hindex := rom_hardware_bounds (phaseIndex a)
  have hnext := rom_hardware_bounds (phaseIndex a + 1)
  omega

end Sys2Proof.Machine

section
open Sys2Proof Sys2Proof.Machine

/-- Settles O32: the table is held against a Taylor polynomial, entry by entry, with more room left than the polynomial
is away from the sine. -/
theorem sineTableIsRoundedSine : Obligations.SineTableIsRoundedSine := abs_rom_sub_sin_lt

/-- Settles O33: the fraction is below 256, so the floor of the correction stays between 0 and the entries'
difference. -/
theorem sineBlendsNeighbours : Obligations.SineBlendsNeighbours := by
  refine ⟨?_, rfl, sine_hardware_bounds⟩
  intro c a h y0 y1
  have hblend : sine c a = y0 + (y1 - y0) * ((a.toNat % 256 : Nat) : Int) / 256 := by
    rw [sine_interpolated c h, phaseFrac, toNat_lowByte]
    rfl
  refine ⟨?_, fun hfrac => ?_, sine_between c h a⟩
  · rw [hblend, Int.fdiv_eq_ediv_of_nonneg _ (by decide)]
  · rw [hblend, hfrac]
    simp

/-- Settles O34: the high byte of the phase is the index. -/
theorem sinePlainLookup : Obligations.SinePlainLookup := by
  intro c i f h
  rw [sine_plain c h, phaseIndex_append]

end
end

section
/-!
PROOFS. The three-phase generator (42_three_phase_generator.md R100 to R102): the lanes' phases as integers, the
quotient of gain times sine and its wrapping sum with the offset, and `TICK` as one equation of states.
-/

namespace Sys2Proof.Machine

/-! ## The lanes (R100) -/

theorem uint_sub (v w : Word) : uint (v - w) = (uint v - uint w) % 65536 := by
  have hlt := w.isLt
  simp only [uint, BitVec.toNat_sub]
  omega

theorem uint_lanePhase_ch2 (p : Word) : uint (lanePhase .ch2 p) = (uint p + 21845) % 65536 := uint_word _

theorem uint_lanePhase_ch3 (p : Word) : uint (lanePhase .ch3 p) = (uint p + 43690) % 65536 := uint_word _

/-! ## The quotient of gain times sine (R101) -/

theorem scale_eq_word (gain offs : Word) (y : Int) :
    scale gain offs y = word (y * sint gain / 32768 + sint offs) := by
  rw [scale, floorShift_15]

/-- `0x8000` is the one word whose signed value has no negative among the words (R14). -/
theorem sint_eq_min_iff (v : Word) : sint v = -32768 ↔ v = 0x8000#16 :=
  BitVec.toInt_inj (y := 0x8000#16)

/-- With a gain above -32768 the product stays at least 32768 below `2^30` in magnitude. -/
theorem gainQuotient_bounds {y : Int} (hlow : -32768 ≤ y) (hhigh : y ≤ 32767) {gain : Word} (h : gain ≠ 0x8000#16) :
    -32767 ≤ y * sint gain / 32768 ∧ y * sint gain / 32768 ≤ 32767 := by
  have hmin := (sint_eq_min_iff gain).not.mpr h
  have hgain := sint_bounds gain
  have hproduct : |y * sint gain| ≤ 32768 * 32767 := by
    rw [abs_mul]
    exact mul_le_mul (abs_le.mpr (by omega)) (abs_le.mpr (by omega)) (abs_nonneg _) (by decide)
  have hbounds := abs_le.mp hproduct
  omega

theorem gainQuotient_invert (y : Int) : y * sint 0x8000#16 / 32768 = -y := by
  have hgain : sint 0x8000#16 = -32768 := rfl
  rw [hgain]
  omega

theorem gainQuotient_unit_of_pos {y : Int} (hpos : 0 < y) (hhigh : y ≤ 32767) :
    y * sint 0x7FFF#16 / 32768 = y - 1 := by
  have hgain : sint 0x7FFF#16 = 32767 := rfl
  rw [hgain]
  omega

theorem gainQuotient_unit_of_nonpos {y : Int} (hlow : -32767 ≤ y) (hneg : y ≤ 0) :
    y * sint 0x7FFF#16 / 32768 = y := by
  have hgain : sint 0x7FFF#16 = 32767 := rfl
  rw [hgain]
  omega

/-! ## The wrapping sum (R101) -/

@[simp] theorem scale_gain_zero (offs : Word) (y : Int) : scale 0#16 offs y = offs := by
  rw [scale_eq_word, sint_zero, mul_zero, Int.zero_ediv, zero_add]
  exact BitVec.ofInt_toInt

/-- With no offset the scaled value is the quotient, as far as it is a signed word. -/
theorem sint_scale_offs_zero {gain : Word} {y q : Int} (hquotient : y * sint gain / 32768 = q) (hlow : -32768 ≤ q)
    (hhigh : q ≤ 32767) : sint (scale gain 0#16 y) = q := by
  rw [scale_eq_word, hquotient, sint_zero, add_zero, sint_word_of_range hlow hhigh]

theorem sint_word_eq_iff (n : Int) : sint (word n) = n ↔ -32768 ≤ n ∧ n ≤ 32767 := by
  rw [sint_word]
  omega

/-! ## TICK as one equation (R102, R132, R135) -/

/-- Two steps of integer arithmetic, `STEP` and `ACCUMULATE`, wrapped once. -/
theorem nextPhase_eq_word (r : Regs) : nextPhase r = word (uint r.phase + sint r.pinc * uint r.pmax / 32768) := by
  rw [nextPhase, phaseStep_eq_word, accumulate, uint_word]
  exact word_congr (by omega)

/-- The whole state after the body of `TICK`: the fields of the other lemmas put together. -/
theorem dispatchSamples_eq (c : Config) (s : State) :
    dispatchSamples c s =
      { s with
        regs := (dispatchSamples c s).regs
        pins := (dispatchSamples c s).pins
        events := (dispatchSamples c s).events } := by
  rw [← dispatchSamples_timerAwaiting c s, ← dispatchSamples_inputs c s]

theorem decodeCommand_head_tick (w : Command) (hrst : cmdRst w = false) (htick : cmdTick w = true) :
    (decodeCommand w).head? = some .tick := by
  cases hwe : cmdWe w <;> simp [decodeCommand, hrst, htick, hwe]

end Sys2Proof.Machine

section
open Sys2Proof Sys2Proof.Machine

/-- Settles O36: each separation is the difference of two lanes' phases modulo 65536. -/
theorem lanesAreThirdsApart : Obligations.LanesAreThirdsApart := by
  intro p
  have hlane1 : lanePhase .ch1 p = p := rfl
  have hlane2 := uint_lanePhase_ch2 p
  have hlane3 := uint_lanePhase_ch3 p
  have hsep12 := uint_sub (lanePhase .ch2 p) p
  have hsep23 := uint_sub (lanePhase .ch3 p) (lanePhase .ch2 p)
  have hsep31 := uint_sub p (lanePhase .ch3 p)
  rw [hlane1]
  simp only [uint_eq] at hlane2 hlane3 hsep12 hsep23 hsep31
  refine ⟨rfl, ?_, ?_, ?_, ?_, ?_⟩ <;> omega

/-- Settles O37: the gain 0x8000 negates, and every other gain keeps the quotient within 32767; the sum with the offset
is then a word read as signed or unsigned. -/
theorem scaleAppliesGainAndOffset : Obligations.ScaleAppliesGainAndOffset := by
  refine ⟨fun gain offs y hlow hhigh => ?_, scale_gain_zero, fun y hpos hhigh => ?_, fun y hlow hneg => ?_,
    fun y hlow hhigh => ?_⟩
  · intro q
    have hq : q = y * sint gain / 32768 := Int.fdiv_eq_ediv_of_nonneg _ (by decide)
    have hscale : scale gain offs y = word (q + sint offs) := by rw [hq, scale_eq_word]
    have hbounds : q ≤ 32768 ∧ -32767 ≤ q ∧ (q = 32768 ↔ y = -32768 ∧ gain = 0x8000#16) := by
      rw [hq]
      rcases eq_or_ne gain 0x8000#16 with rfl | hgain
      · rw [gainQuotient_invert]
        simp only [and_true]
        omega
      · have hquotient := gainQuotient_bounds hlow hhigh hgain
        simp only [hgain, and_false, iff_false]
        omega
    obtain ⟨hmax, hmin, hcorner⟩ := hbounds
    rw [hscale]
    exact ⟨hmax, hmin, hcorner, uint_word _, sint_word_eq_iff _⟩
  · exact sint_scale_offs_zero (gainQuotient_unit_of_pos hpos hhigh) (by omega) (by omega)
  · exact sint_scale_offs_zero (gainQuotient_unit_of_nonpos hlow hneg) (by omega) (by omega)
  · exact sint_scale_offs_zero (gainQuotient_invert y) (by omega) (by omega)

/-- Settles O38: `dispatchSamples_eq` with the phase as one wrapped sum and the codes as biased samples. -/
theorem tickEmitsThenAdvances : Obligations.TickEmitsThenAdvances := by
  refine ⟨fun s => ?_, by decide, decodeCommand_head_tick, fun s => ?_⟩
  · intro P p sample code
    have hphase : nextPhase s.regs = p := nextPhase_eq_word s.regs
    have hcode : ∀ v, dacMap hardwareConfig v = code v := dacMap_hardware_eq_xor
    rw [exec_tick, dispatchSamples_eq, dispatchSamples_regs, dispatchSamples_pins, dispatchSamples_events, hphase]
    simp only [hcode]
    rfl
  · have hsecond := (runOps_cons_next .tick [] _ _).mpr ⟨_, exec_tick (dispatchSamples hardwareConfig s), runOps_nil _⟩
    exact ⟨_, _, exec_tick s, exec_tick _, (runOps_cons_next .tick [.tick] _ _).mpr ⟨_, exec_tick s, hsecond⟩⟩

end
end

section
/-!
PROOFS. The parameter registers, the read and the idle cycle (43_parameter_registers.md R110 to R117): what a write to
any address answers, by itself and beside a `TICK`; the registers as a read sees them; and runs of idle cycles.
-/

namespace Sys2Proof.Machine

/-! ## A write by its address, alone and beside a TICK (R110 to R114) -/

/-- In a cycle of `TICK` and a write, the write falls on the state the tick left (R64, R174). -/
theorem runOps_tick_decodeWrite (a : Addr) (d : Word) (s : State) :
    runOps [.tick, decodeWrite a d] s = .next ((dispatchSamples hardwareConfig s).regWrite a d) := by
  simpa [commandEffect] using runOps_decodeCommand false true true a d s

/-- The write of data `d` to address `a` as the rules of the four parameter registers state it: alone, by its word, and
beside a `TICK`. -/
theorem decodeWrite_answers (a : Addr) (d : Word) (s : State) :
    exec (decodeWrite a d) s = .next (s.regWrite a d) ∧
    decodeCommand (encodeWrite a 0 + d.setWidth 23) = [decodeWrite a d] ∧
    ∃ t : State, exec .tick s = .next t ∧ runOps [.tick, decodeWrite a d] s = .next (t.regWrite a d) := by
  refine ⟨exec_decodeWrite a d s, ?_, _, exec_tick s, runOps_tick_decodeWrite a d s⟩
  rw [← encodeWrite_eq_add, decodeCommand_encodeWrite]

/-! ## Ignored writes, by the row and the two low bits of their address (R65, R114) -/

theorem extractLsb'_row (row low : BitVec 2) : (row ++ low : Addr).extractLsb' 2 2 = row := by
  revert row low
  decide

theorem four_le_toNat_row {row : BitVec 2} (low : BitVec 2) (h : row ≠ 0#2) : 4 ≤ (row ++ low : Addr).toNat := by
  revert row low
  decide

/-- The two low bits of the address stand in bits 17:16 of the command word. -/
theorem encodeWrite_row (row low : BitVec 2) :
    encodeWrite (row ++ low) 0 = encodeWrite (row ++ 0#2) 0 + (low.setWidth 23 <<< 16) := by
  revert row low
  decide

theorem decodeWrite_row (low : BitVec 2) (d : Word) :
    decodeWrite (1#2 ++ low) d = .wrIgn4 (1#2 ++ low) d ∧
    decodeWrite (2#2 ++ low) d = .wrIgn8 (2#2 ++ low) d ∧
    decodeWrite (3#2 ++ low) d = .wrIgnC (3#2 ++ low) d := by
  refine ⟨?_, ?_, ?_⟩ <;> rw [decodeWrite_ignored] <;> simp [extractLsb'_row]

/-- A write outside the four parameter registers: it leaves the state, and beside a `TICK` it leaves what the tick
answers. -/
theorem ignoredWrite_answers {row : BitVec 2} (low : BitVec 2) (h : row ≠ 0#2) (d : Word) (s : State) :
    exec (decodeWrite (row ++ low) d) s = .next s ∧
    decodeCommand (encodeWrite (row ++ 0#2) 0 + (low.setWidth 23 <<< 16) + d.setWidth 23) =
      [decodeWrite (row ++ low) d] ∧
    runOps [.tick, decodeWrite (row ++ low) d] s = exec .tick s := by
  have hkeep : ∀ u : State, u.regWrite (row ++ low) d = u := fun u => regWrite_ignored u _ d (four_le_toNat_row low h)
  obtain ⟨hexec, hdecode, t, htick, hrun⟩ := decodeWrite_answers (row ++ low) d s
  rw [hkeep] at hexec hrun
  rw [encodeWrite_row] at hdecode
  exact ⟨hexec, hdecode, hrun.trans htick.symm⟩

/-! ## The read (R116) -/

/-- The register space as a list: the eleven registers in address order, zero past the end. -/
theorem regRead_eq_getD (r : Regs) (a : Addr) :
    regRead r a =
      [r.pinc, r.pmax, r.gain, r.offs, r.phase, r.sample1, r.sample2, r.sample3, r.dacLast1, r.dacLast2,
        r.dacLast3].getD a.toNat 0x0000#16 := by
  by_cases h : 0xB ≤ a.toNat
  · rw [regRead_reserved r a h, List.getD_eq_default _ _ h]
    rfl
  · unfold regRead
    interval_cases a.toNat <;> rfl

/-- No operation of a command word touches `rdata`. -/
theorem commandEffect_rdata (rst tk we : Bool) (a : Addr) (d : Word) (s : State) (h : s.holdPins.pins = s.pins) :
    (commandEffect rst tk we a d s).pins.rdata = s.pins.rdata := by
  rw [commandEffect_pins rst tk we a d s h]
  split <;> rfl

/-- In any cycle `rdata` is the register as it was before the cycle. -/
theorem step_rdata (s : State) (w : Command) (r : ReadWord) (h : nextInput s = { command := w, read := r }) :
    ∃ t : State, step s = .next t ∧ t.pins.rdata = regRead s.regs r := by
  rw [← packCommand_fields w] at h
  refine ⟨_, step_presented s _ _ _ _ _ r h, ?_⟩
  rw [noteTimer_pins, commandEffect_rdata _ _ _ _ _ _ rfl, State.driveRdata_pins]

/-! ## Idle cycles (R117) -/

/-- The input vector of an idle cycle, with its don't-care bits `ADDR` and `WDATA` and its read word. -/
def idleVector (x : Addr × Word × ReadWord) : Input :=
  { command := packCommand false false false x.1 x.2.1, read := x.2.2 }

theorem step_idleVector (x : Addr × Word × ReadWord) (s : State) (rest : List Input)
    (h : s.inputs = idleVector x :: rest) :
    ∃ t : State, step s = .next t ∧ t.regs = s.regs ∧ t.events = s.events ∧ t.inputs = rest := by
  have hnext : nextInput s = idleVector x := nextInput_cons s (idleVector x) rest h
  refine ⟨_, step_presented s false false false x.1 x.2.1 x.2.2 hnext, ?_, ?_, ?_⟩ <;> simp [commandEffect, h]

theorem run_idleVectors (idle : List (Addr × Word × ReadWord)) (s : State) (rest : List Input)
    (h : s.inputs = idle.map idleVector ++ rest) :
    ∃ t : State, Sys2Proof.core.run idle.length s = .next t ∧
      t.regs = s.regs ∧ t.events = s.events ∧ t.inputs = rest := by
  induction idle generalizing s with
  | nil => exact ⟨s, rfl, rfl, rfl, h⟩
  | cons x idle ih =>
    obtain ⟨u, hstep, hregs, hevents, hinputs⟩ := step_idleVector x s _ h
    obtain ⟨t, hrun, hregs', hevents', hrest⟩ := ih u hinputs
    exact ⟨t, (core_run_succ idle.length s u hstep).trans hrun, hregs'.trans hregs, hevents'.trans hevents, hrest⟩

end Sys2Proof.Machine

section
open Sys2Proof Sys2Proof.Machine

/-- Settles O23: an idle cycle is `step_idleVector`, a run of them `run_idleVectors`. -/
theorem idleCyclesChangeNothing : Obligations.IdleCyclesChangeNothing :=
  ⟨exec_nop, fun idle _ rest => run_idleVectors idle _ rest rfl⟩

/-- Settles O17: `WR_PINC` is the write to address 0x0. -/
theorem writePincStoresItsWord : Obligations.WritePincStoresItsWord := decodeWrite_answers 0x0#4

/-- Settles O18: `WR_PMAX` is the write to address 0x1; a step with `PMAX` = 0 is `phaseStep_pmax_zero`. -/
theorem writePmaxStoresItsWord : Obligations.WritePmaxStoresItsWord :=
  ⟨decodeWrite_answers 0x1#4, phaseStep_pmax_zero⟩

/-- Settles O19: `WR_GAIN` is the write to address 0x2. -/
theorem writeGainStoresItsWord : Obligations.WriteGainStoresItsWord := decodeWrite_answers 0x2#4

/-- Settles O20: `WR_OFFS` is the write to address 0x3. -/
theorem writeOffsStoresItsWord : Obligations.WriteOffsStoresItsWord := decodeWrite_answers 0x3#4

/-- Settles O21: each `WR_IGN` row is `ignoredWrite_answers` at its own bits 3:2 of the address. -/
theorem ignoredWritesChangeNothing : Obligations.IgnoredWritesChangeNothing := by
  intro low d s
  obtain ⟨hrow4, hrow8, hrowC⟩ := decodeWrite_row low d
  obtain ⟨hexec4, hdecode4, hrun4⟩ := ignoredWrite_answers (row := 1#2) low (by decide) d s
  obtain ⟨hexec8, hdecode8, hrun8⟩ := ignoredWrite_answers (row := 2#2) low (by decide) d s
  obtain ⟨hexecC, hdecodeC, hrunC⟩ := ignoredWrite_answers (row := 3#2) low (by decide) d s
  rw [hrow4] at hexec4 hdecode4 hrun4
  rw [hrow8] at hexec8 hdecode8 hrun8
  rw [hrowC] at hexecC hdecodeC hrunC
  exact ⟨hexec4, hexec8, hexecC, hdecode4, hdecode8, hdecodeC, hrun4, hrun8, hrunC⟩

/-- Settles O22: the read by itself is `regRead` as a list, and `rdata` of any cycle is `step_rdata`. -/
theorem readAnswersRegister : Obligations.ReadAnswersRegister := by
  refine ⟨fun a s => ?_, fun s w a rest => ?_⟩
  · rw [exec_rd, regRead_eq_getD]
    rfl
  · obtain ⟨t, hstep, hrdata⟩ := step_rdata { s with inputs := { command := w, read := a } :: rest } w a rfl
    exact ⟨t, _, hstep, exec_rd a s, hrdata⟩

end
end

section
/-!
PROOFS. The DAC output dispatch (44_dac_output_dispatch.md R130, R131, R136): the code of a sample as a quotient for
every DAC width, and the words of a tick carried unchanged from the tick that computed them across every operation
that is neither `RESET` nor `TICK`.
-/

namespace Sys2Proof.Machine

/-! ## The DAC's code as a number (R130) -/

/-- The biased sample is a 16-bit number, so the shift loses nothing to the width of the word. -/
theorem uint_dacMap (c : Config) (v : Word) : uint (dacMap c v) = (sint v + 32768) / 2 ^ (16 - c.dacBits) := by
  obtain ⟨hlow, hhigh⟩ := sint_bounds v
  have hbiased : 0 ≤ sint v + 32768 := by omega
  have hnonneg : 0 ≤ (sint v + 32768) / 2 ^ (16 - c.dacBits) := Int.ediv_nonneg hbiased (by positivity)
  have hle : (sint v + 32768) / 2 ^ (16 - c.dacBits) ≤ sint v + 32768 := Int.ediv_le_self _ hbiased
  rw [dacMap, midscaleBias, floorShift, uint_word]
  exact Int.emod_eq_of_lt hnonneg (by omega)

theorem uint_dacMap_hardware (v : Word) : uint (dacMap hardwareConfig v) = (sint v + 32768) / 16 :=
  uint_dacMap hardwareConfig v

/-- The code fits the DAC: shifting a 16-bit number right by `16 - DAC_BITS` leaves `DAC_BITS` bits. -/
theorem toNat_dacMap_lt (c : Config) (h : c.dacBits ≤ 16) (v : Word) : (dacMap c v).toNat < 2 ^ c.dacBits := by
  obtain ⟨-, hhigh⟩ := sint_bounds v
  have hwidth : (2 : Int) ^ c.dacBits * 2 ^ (16 - c.dacBits) = 65536 := by
    rw [← pow_add, Nat.add_sub_cancel' h]
    rfl
  have hquotient : (sint v + 32768) / 2 ^ (16 - c.dacBits) < 2 ^ c.dacBits :=
    Int.ediv_lt_of_lt_mul (by positivity) (by omega)
  rw [← uint_dacMap, uint_eq] at hquotient
  exact_mod_cast hquotient

theorem extractLsb'_upperBits_of_lt {v : Word} (h : v.toNat < 4096) : v.extractLsb' 12 4 = 0#4 := by
  apply BitVec.eq_of_toNat_eq
  rw [BitVec.extractLsb'_toNat, Nat.shiftRight_eq_div_pow]
  simp only [BitVec.toNat_ofNat]
  omega

/-! ## Operations between two ticks (R136, R160) -/

/-- What a `TICK` appends to the history: the codes of the three samples the registers hold, then the acknowledge. -/
def tickEvents (r : Regs) : List Event :=
  [.dacWrite .ch1 (dacMap hardwareConfig r.sample1), .dacWrite .ch2 (dacMap hardwareConfig r.sample2),
    .dacWrite .ch3 (dacMap hardwareConfig r.sample3), .ack]

theorem dispatchSamples_events_eq_append (s : State) :
    (dispatchSamples hardwareConfig s).events = s.events ++ tickEvents s.regs :=
  dispatchSamples_events hardwareConfig s

/-- The writes, the reads and the idle operation: what the host can do between two ticks. -/
def IsHostOp (i : Instr) : Prop := i ≠ .reset ∧ i ≠ .tick

theorem isHostOp_rd (a : Addr) : IsHostOp (.rd a) := ⟨nofun, nofun⟩

theorem isHostOp_nop : IsHostOp .nop := ⟨nofun, nofun⟩

theorem isHostOp_decodeWrite (a : Addr) (d : Word) : IsHostOp (decodeWrite a d) := by
  rcases decodeWrite_cases a d with ⟨-, h⟩ | ⟨-, h⟩ | ⟨-, h⟩ | ⟨-, h⟩ | ⟨-, h⟩ | ⟨-, h⟩ | ⟨-, h⟩ <;>
    rw [h] <;> exact ⟨nofun, nofun⟩

/-- All a host's operation can do to a state. -/
theorem exec_hostOp_cases {i : Instr} (h : IsHostOp i) (s : State) :
    (∃ a d, exec i s = .next (s.regWrite a d)) ∨ (∃ v, exec i s = .next (s.driveRdata v)) ∨
      exec i s = .next s.holdPins := by
  obtain ⟨hreset, htick⟩ := h
  cases i with
  | reset => exact absurd rfl hreset
  | tick => exact absurd rfl htick
  | wrPinc d => exact .inl ⟨0x0#4, d, rfl⟩
  | wrPmax d => exact .inl ⟨0x1#4, d, rfl⟩
  | wrGain d => exact .inl ⟨0x2#4, d, rfl⟩
  | wrOffs d => exact .inl ⟨0x3#4, d, rfl⟩
  | wrIgn4 a d => exact .inl ⟨a, d, rfl⟩
  | wrIgn8 a d => exact .inl ⟨a, d, rfl⟩
  | wrIgnC a d => exact .inl ⟨a, d, rfl⟩
  | nop => exact .inr (.inr (exec_nop s))
  | rd a => exact .inr (.inl ⟨_, exec_rd a s⟩)

/-- From `s` to `t` nothing was emitted or presented, and the next tick emits the same. -/
structure KeepsEmission (s t : State) : Prop where
  events : t.events = s.events
  inputs : t.inputs = s.inputs
  pending : tickEvents t.regs = tickEvents s.regs

theorem KeepsEmission.refl (s : State) : KeepsEmission s s := ⟨rfl, rfl, rfl⟩

theorem KeepsEmission.trans {s t u : State} (hst : KeepsEmission s t) (htu : KeepsEmission t u) : KeepsEmission s u :=
  ⟨htu.events.trans hst.events, htu.inputs.trans hst.inputs, htu.pending.trans hst.pending⟩

/-- A write does not reach the samples, so it cannot change what the next tick emits. -/
theorem keepsEmission_regWrite (s : State) (a : Addr) (d : Word) : KeepsEmission s (s.regWrite a d) := by
  obtain ⟨-, hevents, -, hinputs⟩ := regWrite_frame s a d
  obtain ⟨-, hsample1, hsample2, hsample3, -⟩ := regWrite_datapath s a d
  exact ⟨hevents, hinputs, by rw [tickEvents, hsample1, hsample2, hsample3, tickEvents]⟩

theorem exec_hostOp {i : Instr} (h : IsHostOp i) (s : State) : ∃ t : State, exec i s = .next t ∧ KeepsEmission s t := by
  rcases exec_hostOp_cases h s with ⟨a, d, hexec⟩ | ⟨v, hexec⟩ | hexec
  · exact ⟨_, hexec, keepsEmission_regWrite s a d⟩
  · exact ⟨_, hexec, ⟨rfl, rfl, rfl⟩⟩
  · exact ⟨_, hexec, ⟨rfl, rfl, rfl⟩⟩

theorem runOps_hostOps {ops : List Instr} (h : ∀ i ∈ ops, IsHostOp i) (s : State) :
    ∃ t : State, runOps ops s = .next t ∧ KeepsEmission s t := by
  induction ops generalizing s with
  | nil => exact ⟨s, runOps_nil s, .refl s⟩
  | cons i ops ih =>
    obtain ⟨hi, hops⟩ := List.forall_mem_cons.mp h
    obtain ⟨u, hexec, hfirst⟩ := exec_hostOp hi s
    obtain ⟨t, hrun, hrest⟩ := ih hops u
    exact ⟨t, (runOps_cons_next i ops s t).mpr ⟨u, hexec, hrun⟩, hfirst.trans hrest⟩

/-! ## Host cycles before a tick (R136) -/

/-- The input vector of a cycle with neither reset nor tick: `WE`, `ADDR`, `WDATA` and the read word are free. -/
def hostVector (x : Bool × Addr × Word × ReadWord) : Input :=
  { command := packCommand false false x.1 x.2.1 x.2.2.1, read := x.2.2.2 }

theorem cycleOps_hostVector (x : Bool × Addr × Word × ReadWord) : ∀ i ∈ cycleOps (hostVector x), IsHostOp i := by
  obtain ⟨we, a, d, r⟩ := x
  cases we with
  | true => simp [cycleOps, hostVector, decodeRead, isHostOp_rd, isHostOp_decodeWrite]
  | false => simp [cycleOps, hostVector, decodeRead, isHostOp_rd, isHostOp_nop]

theorem step_hostVector (x : Bool × Addr × Word × ReadWord) (s : State) (rest : List Input)
    (h : s.inputs = hostVector x :: rest) :
    ∃ t : State, step s = .next t ∧ t.events = s.events ∧ tickEvents t.regs = tickEvents s.regs ∧ t.inputs = rest := by
  have hnext : nextInput s = hostVector x := nextInput_cons s (hostVector x) rest h
  obtain ⟨u, hrun, hkeep⟩ := runOps_hostOps (cycleOps_hostVector x) (beginCycle s)
  have hrest : u.inputs = rest := by rw [hkeep.inputs, beginCycle_inputs, h, List.tail_cons]
  exact ⟨_, (step_next s _).mpr ⟨u, by rw [hnext, hrun], rfl⟩, hkeep.events, hkeep.pending, hrest⟩

theorem step_tickInput_events (s : State) (rest : List Input) (h : s.inputs = tickInput :: rest) :
    ∃ t : State, step s = .next t ∧ t.events = s.events ++ tickEvents s.regs := by
  refine ⟨_, step_presented s false true false 0 0 0 (nextInput_cons s tickInput rest h), ?_⟩
  rw [noteTimer_events, commandEffect_events]
  rfl

/-- Whatever the host presents before the first tick, that tick emits what was pending at the start. -/
theorem run_hostVectors_tick (host : List (Bool × Addr × Word × ReadWord)) (s : State) (rest : List Input)
    (h : s.inputs = host.map hostVector ++ tickInput :: rest) :
    ∃ t : State, Sys2Proof.core.run (host.length + 1) s = .next t ∧ t.events = s.events ++ tickEvents s.regs := by
  induction host generalizing s with
  | nil =>
    obtain ⟨t, hstep, hevents⟩ := step_tickInput_events s rest h
    exact ⟨t, core_run_succ 0 s t hstep, hevents⟩
  | cons x host ih =>
    obtain ⟨u, hstep, hevents, hpending, hinputs⟩ := step_hostVector x s _ h
    obtain ⟨t, hrun, hlast⟩ := ih u hinputs
    exact ⟨t, (core_run_succ (host.length + 1) s u hstep).trans hrun, by rw [hlast, hevents, hpending]⟩

end Sys2Proof.Machine

section
open Sys2Proof Sys2Proof.Machine

/-- Settles O41: `uint_dacMap` and `toNat_dacMap_lt` for every width; the hardware's forms are `dacMap_hardware_eq_xor`,
the code below 4096, and the bias 32768 = 2048 * 16 taken out of the quotient. -/
theorem mapShiftsBiasedSample : Obligations.MapShiftsBiasedSample := by
  refine ⟨fun c v _ hmax => ⟨uint_dacMap c v, toNat_dacMap_lt c hmax v⟩, rfl, fun v => ⟨?_, ?_, ?_⟩⟩
  · exact dacMap_hardware_eq_xor v
  · exact extractLsb'_upperBits_of_lt (toNat_dacMap_lt hardwareConfig (by decide) v)
  · have hcode : ((dacMap hardwareConfig v).toNat : Int) = (v.toInt + 32768) / 16 := uint_dacMap_hardware v
    rw [hcode, Int.fdiv_eq_ediv_of_nonneg _ (by decide)]
    omega

/-- Settles O42: the code is the floor of the biased sample over 16, which is monotonic and takes each value on sixteen
consecutive samples. -/
theorem mapIsMonotonicSixteenToOne : Obligations.MapIsMonotonicSixteenToOne := by
  have hcode : ∀ v : Word, ((dacMap hardwareConfig v).toNat : Int) = (v.toInt + 32768) / 16 := uint_dacMap_hardware
  refine ⟨fun v w hle => ?_, fun k v _ => ?_⟩
  · have hv := hcode v
    have hw := hcode w
    omega
  · have hv := hcode v
    omega

/-- Settles O43: the samples a tick leaves (`exec_tick_generatorAt`) are still pending after any host operations
(`runOps_hostOps`); after a reset the pending codes are those of zero samples (`run_hostVectors_tick`). -/
theorem outputLatencyIsOneTick : Obligations.OutputLatencyIsOneTick := by
  refine ⟨fun s ops hops => ?_, fun host s rest => ?_⟩
  · intro code
    have hcode : ∀ v, dacMap hardwareConfig v = (v ^^^ 0x8000#16) >>> 4 := dacMap_hardware_eq_xor
    obtain ⟨t, hfirst, hgen⟩ := exec_tick_generatorAt s
    obtain ⟨t', hrun, hkeep⟩ := runOps_hostOps hops t
    refine ⟨t, t', _, hfirst, hrun, exec_tick t', ?_⟩
    rw [dispatchSamples_events_eq_append, hkeep.events, hkeep.pending, tickEvents, hgen.sample1, hgen.sample2,
      hgen.sample3, hcode, hcode, hcode]
    rfl
  · obtain ⟨t, hrun, hevents⟩ := run_hostVectors_tick host
      { s.holdPins.clearRegs with inputs := host.map hostVector ++ tickInput :: rest } rest rfl
    have hpending : tickEvents Regs.reset =
        [.dacWrite .ch1 0x0800#16, .dacWrite .ch2 0x0800#16, .dacWrite .ch3 0x0800#16, .ack] := by
      simp [tickEvents, Regs.reset]
    exact ⟨_, t, exec_reset s, hrun, by rw [hevents, ← hpending]; rfl⟩

end
end

section
/-!
PROOFS. Totality (60_exceptions.md R145): every operation, every list of operations and every cycle ends in a next
state. The lists and the cycles are for any executor whose operations all do, so for any build.
-/

namespace Sys2Proof.Machine

theorem exec_total (i : Instr) (s : State) : ∃ t : State, exec i s = .next t := by
  by_cases hreset : i = .reset
  · subst hreset
    exact ⟨_, exec_reset s⟩
  by_cases htick : i = .tick
  · subst htick
    exact ⟨_, exec_tick s⟩
  obtain ⟨t, hexec, -⟩ := exec_hostOp ⟨hreset, htick⟩ s
  exact ⟨t, hexec⟩

theorem runOpsWith_total {ex : Executor} (hex : ∀ (i : Instr) (s : State), ∃ t : State, ex i s = .next t)
    (ops : List Instr) (s : State) : ∃ t : State, runOpsWith ex ops s = .next t := by
  induction ops generalizing s with
  | nil => exact ⟨s, runOpsWith_nil ex s⟩
  | cons i ops ih =>
    obtain ⟨u, hfirst⟩ := hex i s
    obtain ⟨t, hrest⟩ := ih u
    exact ⟨t, (runOpsWith_cons_next ex i ops s t).mpr ⟨u, hfirst, hrest⟩⟩

theorem runCycleWith_total {ex : Executor} (hex : ∀ (i : Instr) (s : State), ∃ t : State, ex i s = .next t)
    (inp : Input) (s : State) : ∃ t : State, runCycleWith ex inp s = .next t := by
  obtain ⟨u, hops⟩ := runOpsWith_total hex (cycleOps inp) (beginCycle s)
  exact ⟨noteTimer inp u, (runCycleWith_next ex inp s _).mpr ⟨u, hops, rfl⟩⟩

theorem step_total (s : State) : ∃ t : State, step s = .next t := runCycleWith_total exec_total (nextInput s) s

end Sys2Proof.Machine

section
open Sys2Proof Sys2Proof.Machine

/-- Settles O10: each operation ends in a next state (`exec_total`), so the operations of a cycle do, and with them the
step (`step_total`). -/
theorem nothingEverFails : Obligations.NothingEverFails := ⟨exec_total, step_total⟩

end
end

section
/-!
PROOFS. Reset and hazards (70_reset_and_hazards.md R170, R174): `RESET` by every word that carries its bit, and the
write that shares its cycle with a tick, which falls on the registers the tick left.
-/

namespace Sys2Proof.Machine

/-! ## RESET wins the decoding (R64, R170) -/

theorem decodeCommand_of_rst {w : Command} (h : cmdRst w = true) : decodeCommand w = [.reset] := by
  rw [decodeCommand, if_pos h]

/-! ## The registers after an operation depend on the registers before it (R19, R46) -/

theorem regWrite_regs_congr {s t : State} (h : s.regs = t.regs) (a : Addr) (d : Word) :
    (s.regWrite a d).regs = (t.regWrite a d).regs := by
  by_cases hignored : 4 ≤ a.toNat
  · rw [regWrite_ignored s a d hignored, regWrite_ignored t a d hignored, h]
  · have haddr : a = 0x0#4 ∨ a = 0x1#4 ∨ a = 0x2#4 ∨ a = 0x3#4 := by bv_omega
    rcases haddr with rfl | rfl | rfl | rfl <;> simp [h]

theorem dispatchSamples_regs_congr {s t : State} (h : s.regs = t.regs) (c : Config) :
    (dispatchSamples c s).regs = (dispatchSamples c t).regs := by
  rw [dispatchSamples_regs, dispatchSamples_regs, h]

/-! ## A tick and a write in one cycle (R174) -/

theorem commandEffect_tick_write (a : Addr) (d : Word) (s : State) :
    commandEffect false true true a d s = (dispatchSamples hardwareConfig s).regWrite a d := rfl

end Sys2Proof.Machine

section
open Sys2Proof Sys2Proof.Machine

/-- Settles O44: the cycle is `step_presented`, and its tick and write fall on the old registers and the old history,
since the start of the cycle and the read change neither. -/
theorem writeBesideTickLandsAfterIt : Obligations.WriteBesideTickLandsAfterIt := by
  intro s a d r rest
  refine ⟨_, _, _, step_presented _ false true true a d r rfl, exec_tick s, exec_decodeWrite a d _, ?_, ?_⟩
  · rw [noteTimer_regs, commandEffect_tick_write]
    apply regWrite_regs_congr
    apply dispatchSamples_regs_congr
    rw [State.driveRdata_regs, beginCycle_regs]
  · rw [noteTimer_events, commandEffect_tick_write, regWrite_events, dispatchSamples_events, dispatchSamples_events,
      State.driveRdata_events, State.driveRdata_regs, beginCycle_events, beginCycle_regs]

/-- Settles O14: `exec_reset` is the whole operation, and `decodeCommand_of_rst` its command words; the history stays,
since neither holding the pins nor clearing the registers records an event. -/
theorem resetClearsEveryRegister : Obligations.ResetClearsEveryRegister := by
  refine ⟨exec_reset, fun _ => decodeCommand_of_rst, fun s => ⟨_, _, exec_reset s, exec_reset _, ?_, ?_⟩⟩
  · rw [State.clearRegs_regs, State.clearRegs_regs]
  · rw [State.clearRegs_events, State.holdPins_events, State.clearRegs_events, State.holdPins_events]

end
end

section
/-!
PROOFS. Invariants (10_state.md R18, R24): all that an operation of any build can do to a state, the package "an
operation keeps it and TIMER's note keeps it, so a cycle keeps it", and with it the range of the DAC codes and the
shape of the history.
-/

namespace Sys2Proof.Machine

/-! ## What an operation and a cycle of any build can do (R5, R64) -/

theorem execBuild_hardware (i : Instr) (s : State) : execBuild hardwareConfig i s = exec i s := by
  by_cases htick : i = .tick
  · rw [htick, execBuild_tick, exec_tick]
  · exact execBuild_ne_tick hardwareConfig i s htick

theorem stepBuild_hardware (s : State) : stepBuild hardwareConfig s = step s := by
  have hexec : execBuild hardwareConfig = exec := funext fun i => funext (execBuild_hardware i)
  rw [stepBuild, hexec, step, runCycle]

/-- All that one operation of a block of configuration `c` can leave of a state. -/
inductive OpEffect (c : Config) (s : State) : State → Prop where
  | write (a : Addr) (d : Word) : OpEffect c s (s.regWrite a d)
  | read (v : Word) : OpEffect c s (s.driveRdata v)
  | idle : OpEffect c s s.holdPins
  | reset : OpEffect c s s.holdPins.clearRegs
  | tick : OpEffect c s (dispatchSamples c s)

theorem execBuild_effect (c : Config) (i : Instr) (s : State) :
    ∃ t : State, execBuild c i s = .next t ∧ OpEffect c s t := by
  by_cases htick : i = .tick
  · rw [htick]
    exact ⟨_, execBuild_tick c s, .tick⟩
  rw [execBuild_ne_tick c i s htick]
  by_cases hreset : i = .reset
  · rw [hreset]
    exact ⟨_, exec_reset s, .reset⟩
  rcases exec_hostOp_cases ⟨hreset, htick⟩ s with ⟨a, d, h⟩ | ⟨v, h⟩ | h
  · exact ⟨_, h, .write a d⟩
  · exact ⟨_, h, .read v⟩
  · exact ⟨_, h, .idle⟩

theorem stepBuild_total (c : Config) (s : State) : ∃ t : State, stepBuild c s = .next t := by
  refine runCycleWith_total (fun i u => ?_) (nextInput s) s
  obtain ⟨t, hexec, -⟩ := execBuild_effect c i u
  exact ⟨t, hexec⟩

/-- What every operation of the build keeps, and the note of TIMER's bit too. -/
structure KeptByCycle (c : Config) (P : State → Prop) : Prop where
  op : ∀ {s t : State}, OpEffect c s t → P s → P t
  note : ∀ (inp : Input) {s : State}, P s → P (noteTimer inp s)

theorem KeptByCycle.runOpsWith {c : Config} {P : State → Prop} (h : KeptByCycle c P) {ops : List Instr} {s t : State}
    (hs : P s) (hrun : runOpsWith (execBuild c) ops s = .next t) : P t := by
  induction ops generalizing s with
  | nil =>
    cases hrun
    exact hs
  | cons i ops ih =>
    obtain ⟨u, hexec, hrest⟩ := (runOpsWith_cons_next _ i ops s t).mp hrun
    obtain ⟨u', hexec', heffect⟩ := execBuild_effect c i s
    cases hexec.symm.trans hexec'
    exact ih (h.op heffect hs) hrest

/-- The start of the cycle is left to the caller: it may establish more than the state before the cycle has. -/
theorem KeptByCycle.stepBuild {c : Config} {P : State → Prop} (h : KeptByCycle c P) {s t : State}
    (hs : P (beginCycle s)) (hstep : stepBuild c s = .next t) : P t := by
  obtain ⟨u, hrun, rfl⟩ := (stepBuild_next c s t).mp hstep
  exact h.note _ (h.runOpsWith hs hrun)

/-! ## DAC registers and pins by channel (R18, R62) -/

/-- The word on the data pins of a channel (R62). -/
def Pins.dac (p : Pins) : Channel → Word
  | .ch1 => p.dac1
  | .ch2 => p.dac2
  | .ch3 => p.dac3

theorem regWrite_dacLast (s : State) (a : Addr) (d : Word) (ch : Channel) :
    (s.regWrite a d).regs.dacLast ch = s.regs.dacLast ch := by
  obtain ⟨-, -, -, -, h1, h2, h3⟩ := regWrite_datapath s a d
  cases ch
  · exact h1
  · exact h2
  · exact h3

theorem reset_dacLast (ch : Channel) : Regs.reset.dacLast ch = 0#16 := by
  cases ch <;> rfl

theorem holdPins_dac (s : State) (ch : Channel) : s.holdPins.pins.dac ch = s.regs.dacLast ch := by
  cases ch <;> rfl

theorem driveRdata_dac (s : State) (v : Word) (ch : Channel) : (s.driveRdata v).pins.dac ch = s.pins.dac ch := by
  cases ch <;> rfl

theorem dispatchSamples_dacLast (c : Config) (s : State) (ch : Channel) :
    (dispatchSamples c s).regs.dacLast ch = dacMap c (s.regs.sample ch) := by
  rw [dispatchSamples_regs]
  cases ch <;> rfl

theorem dispatchSamples_dac (c : Config) (s : State) (ch : Channel) :
    (dispatchSamples c s).pins.dac ch = dacMap c (s.regs.sample ch) := by
  rw [dispatchSamples_pins]
  cases ch <;> rfl

/-! ## The codes stay in the DAC's range (R24) -/

/-- `DACLAST1..3` and the DAC pins are words of `b` bits. -/
structure DacsBelow (b : Nat) (s : State) : Prop where
  regs : ∀ ch, (s.regs.dacLast ch).toNat < 2 ^ b
  pins : ∀ ch, (s.pins.dac ch).toNat < 2 ^ b

/-- In a cycle without a tick the pins repeat the registers. -/
theorem dacsBelow_holdPins {b : Nat} {s : State} (h : ∀ ch, (s.regs.dacLast ch).toNat < 2 ^ b) :
    DacsBelow b s.holdPins :=
  ⟨h, fun ch => by rw [holdPins_dac]; exact h ch⟩

theorem dacsBelow_beginCycle {b : Nat} {s : State} (h : ∀ ch, (s.regs.dacLast ch).toNat < 2 ^ b) :
    DacsBelow b (beginCycle s) :=
  dacsBelow_holdPins h

/-- `TICK` writes codes of the block's own width, and nothing else writes these registers but `RESET`. -/
theorem keptByCycle_dacsBelow {c : Config} (hwidth : c.dacBits ≤ 16) : KeptByCycle c (DacsBelow c.dacBits) where
  op := by
    intro s t heffect hs
    cases heffect with
    | write a d =>
      refine ⟨fun ch => ?_, fun ch => ?_⟩
      · rw [regWrite_dacLast]
        exact hs.regs ch
      · rw [regWrite_pins]
        exact hs.pins ch
    | read v => exact ⟨hs.regs, fun ch => by rw [driveRdata_dac]; exact hs.pins ch⟩
    | idle => exact dacsBelow_holdPins hs.regs
    | reset =>
      refine ⟨fun ch => ?_, (dacsBelow_holdPins hs.regs).pins⟩
      rw [State.clearRegs_regs, reset_dacLast]
      exact Nat.two_pow_pos _
    | tick =>
      refine ⟨fun ch => ?_, fun ch => ?_⟩
      · rw [dispatchSamples_dacLast]
        exact toNat_dacMap_lt c hwidth _
      · rw [dispatchSamples_dac]
        exact toNat_dacMap_lt c hwidth _
  note _ _ hs := ⟨hs.regs, hs.pins⟩

theorem stepBuild_dacsBelow {c : Config} (hwidth : c.dacBits ≤ 16) {s t : State}
    (h : ∀ ch, (s.regs.dacLast ch).toNat < 2 ^ c.dacBits) (hstep : stepBuild c s = .next t) :
    DacsBelow c.dacBits t :=
  (keptByCycle_dacsBelow hwidth).stepBuild (dacsBelow_beginCycle h) hstep

/-! ## Codes of the 12-bit DAC (R24, R130) -/

theorem isDacCode_iff (v : Word) : isDacCode v = true ↔ v.toNat < 2 ^ 12 := by
  have hlt := v.isLt
  rw [isDacCode, beq_iff_eq, ← BitVec.toNat_inj, BitVec.extractLsb'_toNat, Nat.shiftRight_eq_div_pow,
    BitVec.toNat_ofNat]
  omega

theorem forall_channel {P : Channel → Prop} : (∀ ch, P ch) ↔ P .ch1 ∧ P .ch2 ∧ P .ch3 := by
  constructor
  · exact fun h => ⟨h _, h _, h _⟩
  · rintro ⟨h1, h2, h3⟩ (_ | _ | _)
    · exact h1
    · exact h2
    · exact h3

theorem Regs.dacCodesFit_iff (r : Regs) : r.dacCodesFit = true ↔ ∀ ch, (r.dacLast ch).toNat < 2 ^ 12 := by
  simp only [Regs.dacCodesFit, Bool.and_eq_true, isDacCode_iff, forall_channel, and_assoc, Regs.dacLast]

theorem Pins.dacCodesFit_iff (p : Pins) : p.dacCodesFit = true ↔ ∀ ch, (p.dac ch).toNat < 2 ^ 12 := by
  simp only [Pins.dacCodesFit, Bool.and_eq_true, isDacCode_iff, forall_channel, and_assoc, Pins.dac]

theorem isDacCode_dacMap_hardware (v : Word) : isDacCode (dacMap hardwareConfig v) = true :=
  (isDacCode_iff _).mpr (toNat_dacMap_lt hardwareConfig (by decide) v)

/-! ## The history (R18, R132, R135) -/

/-- Complete ticks at the front of a history leave the rest to be judged by itself. -/
theorem completeTicks_append {es : List Event} (h : completeTicks es = true) (fs : List Event) :
    completeTicks (es ++ fs) = completeTicks fs := by
  induction es using completeTicks.induct with
  | case1 => rfl
  | case2 a b c es ih =>
    simp only [completeTicks, Bool.and_eq_true] at h
    obtain ⟨⟨⟨ha, hb⟩, hc⟩, hes⟩ := h
    simp [completeTicks, ha, hb, hc, ih hes]
  | case3 es hnil htick => rw [completeTicks.eq_3 es hnil htick] at h; cases h

theorem completeTicks_tickEvents (r : Regs) : completeTicks (tickEvents r) = true := by
  simp [tickEvents, completeTicks, isDacCode_dacMap_hardware]

/-- The later part of a history has the last word, where it has one. -/
theorem lastWritten_append (ch : Channel) (es fs : List Event) :
    lastWritten ch (es ++ fs) = (lastWritten ch fs).or (lastWritten ch es) := by
  induction es with
  | nil => simp [lastWritten]
  | cons e es ih =>
    cases e with
    | dacWrite c v => simp [lastWritten, ih, Option.or_assoc]
    | ack => simp [lastWritten, ih]

theorem lastWritten_tickEvents (ch : Channel) (r : Regs) :
    lastWritten ch (tickEvents r) = some (dacMap hardwareConfig (r.sample ch)) := by
  cases ch <;> simp [tickEvents, lastWritten, Regs.sample]

theorem dacLastRecorded_iff (s : State) (ch : Channel) :
    dacLastRecorded s ch = true ↔ s.regs.dacLast ch = 0 ∨ lastWritten ch s.events = some (s.regs.dacLast ch) := by
  simp [dacLastRecorded]

/-- `State.outputInv`, clause by clause. -/
structure OutputInv (s : State) : Prop where
  dacs : DacsBelow 12 s
  history : completeTicks s.events = true
  recorded : ∀ ch, dacLastRecorded s ch = true

theorem outputInv_iff (s : State) : s.outputInv = true ↔ OutputInv s := by
  simp only [State.outputInv, Bool.and_eq_true, Regs.dacCodesFit_iff, Pins.dacCodesFit_iff]
  constructor
  · rintro ⟨⟨⟨⟨⟨hregs, hpins⟩, hhistory⟩, h1⟩, h2⟩, h3⟩
    exact ⟨⟨hregs, hpins⟩, hhistory, forall_channel.mpr ⟨h1, h2, h3⟩⟩
  · rintro ⟨⟨hregs, hpins⟩, hhistory, hrecorded⟩
    exact ⟨⟨⟨⟨⟨hregs, hpins⟩, hhistory⟩, hrecorded _⟩, hrecorded _⟩, hrecorded _⟩

/-- R18 reads nothing of a state but its registers `DACLAST1..3` and its history. -/
theorem dacLastRecorded_congr {s t : State} {ch : Channel} (hregs : t.regs.dacLast ch = s.regs.dacLast ch)
    (hevents : t.events = s.events) (h : dacLastRecorded s ch = true) : dacLastRecorded t ch = true := by
  rw [dacLastRecorded_iff] at h ⊢
  rwa [hregs, hevents]

theorem dacLastRecorded_of_tick (s : State) (ch : Channel) :
    dacLastRecorded (dispatchSamples hardwareConfig s) ch = true := by
  refine (dacLastRecorded_iff _ _).mpr (.inr ?_)
  rw [dispatchSamples_events_eq_append, lastWritten_append, lastWritten_tickEvents, dispatchSamples_dacLast,
    Option.some_or]

theorem keptByCycle_outputInv : KeptByCycle hardwareConfig OutputInv where
  op := by
    intro s t heffect hs
    have hdacs : DacsBelow 12 t := (keptByCycle_dacsBelow (c := hardwareConfig) (by decide)).op heffect hs.dacs
    cases heffect with
    | write a d =>
      refine ⟨hdacs, ?_, fun ch => dacLastRecorded_congr ?_ ?_ (hs.recorded ch)⟩
      · rw [regWrite_events]
        exact hs.history
      · exact regWrite_dacLast s a d ch
      · exact regWrite_events s a d
    | read v => exact ⟨hdacs, hs.history, hs.recorded⟩
    | idle => exact ⟨hdacs, hs.history, hs.recorded⟩
    | reset => exact ⟨hdacs, hs.history, fun ch => (dacLastRecorded_iff _ _).mpr (.inl (reset_dacLast ch))⟩
    | tick =>
      refine ⟨hdacs, ?_, dacLastRecorded_of_tick s⟩
      rw [dispatchSamples_events_eq_append, completeTicks_append hs.history, completeTicks_tickEvents]
  note _ _ hs := ⟨⟨hs.dacs.regs, hs.dacs.pins⟩, hs.history, hs.recorded⟩

theorem outputInv_beginCycle {s : State} (h : OutputInv s) : OutputInv (beginCycle s) :=
  ⟨dacsBelow_beginCycle h.dacs.regs, h.history, h.recorded⟩

end Sys2Proof.Machine

section
open Sys2Proof Sys2Proof.Machine

/-- Settles O57: `stepBuild_dacsBelow`, whose operations are those of `keptByCycle_dacsBelow`. -/
theorem everyBuildKeepsItsDacRange : Obligations.EveryBuildKeepsItsDacRange := by
  intro c s t hwf hregs hstep
  simp only [Config.wf, Bool.and_eq_true, decide_eq_true_eq] at hwf
  obtain ⟨-, hwidth⟩ := hwf
  have ht := stepBuild_dacsBelow hwidth hregs hstep
  exact ⟨ht.regs, ht.pins .ch1, ht.pins .ch2, ht.pins .ch3⟩

/-- Settles O45: the build of O57 with twelve bits, where a code is a word below `2^12`. -/
theorem dacCodesStayInRange : Obligations.DacCodesStayInRange := by
  intro s t hs hstep
  rw [← stepBuild_hardware] at hstep
  have ht := stepBuild_dacsBelow (c := hardwareConfig) (by decide) ((Regs.dacCodesFit_iff _).mp hs) hstep
  exact ⟨(Regs.dacCodesFit_iff _).mpr ht.regs, (Pins.dacCodesFit_iff _).mpr ht.pins⟩

/-- Settles O47: each operation keeps the invariant (`keptByCycle_outputInv`), and the start of a cycle does too. -/
theorem historyStaysCompleteTicks : Obligations.HistoryStaysCompleteTicks := by
  intro s t hs hstep
  rw [outputInv_iff] at hs ⊢
  rw [← stepBuild_hardware] at hstep
  exact keptByCycle_outputInv.stepBuild (outputInv_beginCycle hs) hstep

/-- Settles O48: by evaluation, since the history is empty and the registers are 0. -/
theorem resetMeetsOutputInvariant : Obligations.ResetMeetsOutputInvariant := by
  unfold Obligations.ResetMeetsOutputInvariant
  decide

/-- Settles O46: every `DACLASTn` is 0 after reset, which is below any power of two. -/
theorem resetHasDacCodesInRange : Obligations.ResetHasDacCodesInRange := by
  have hcodes : Regs.reset.dacCodesFit = true := by decide
  have hrange : ∀ (b : Nat) (ch : Channel), (Regs.reset.dacLast ch).toNat < 2 ^ b := fun b ch => by
    rw [reset_dacLast]
    exact Nat.two_pow_pos b
  exact ⟨hcodes, fun s => ⟨_, exec_reset s, hcodes⟩, fun c ch =>
    ⟨hrange c.dacBits ch, fun s => ⟨s.holdPins.clearRegs, rfl, hrange c.dacBits ch⟩⟩⟩

/-- Settles O55: the configuration by evaluation, the operations and the cycle by `execBuild_hardware` and
`stepBuild_hardware`. -/
theorem hardwareBuildIsTheMachine : Obligations.HardwareBuildIsTheMachine :=
  ⟨rfl, rfl, by decide, execBuild_hardware, stepBuild_hardware⟩

end
end

section
/-!
PROOFS. Lines of operations against the decoder (30_encoding.md R63 to R68): a well-formed line is one command or `TICK`
with one write, its command word decodes to its operations, and the operations of any command word are such a line.
-/

namespace Sys2Proof.Machine

/-! ## The two kinds of line (R68) -/

theorem Line.wellFormed_cases {l : Line} (h : l.wellFormed = true) :
    (∃ i, l.cmds = [i] ∧ isCommand i = true ∧ i.wellFormed = true) ∨
      ∃ j, l.cmds = [.tick, j] ∧ isWrite j = true ∧ j.wellFormed = true := by
  unfold Line.wellFormed at h
  split at h
  · next i hcmds =>
    rw [Bool.and_eq_true] at h
    exact .inl ⟨i, hcmds, h⟩
  · next i j hcmds =>
    simp only [Bool.and_eq_true, beq_iff_eq] at h
    obtain ⟨⟨rfl, hwrite⟩, hwf⟩ := h
    exact .inr ⟨j, hcmds, hwrite, hwf⟩
  · cases h

theorem Line.wellFormed_cmds {l : Line} (h : l.wellFormed = true) : ∀ i ∈ l.cmds, i.wellFormed = true := by
  rcases Line.wellFormed_cases h with ⟨i, hcmds, -, hwf⟩ | ⟨j, hcmds, -, hwf⟩ <;> rw [hcmds]
  · exact List.forall_mem_singleton.mpr hwf
  · exact List.forall_mem_cons.mpr ⟨rfl, List.forall_mem_singleton.mpr hwf⟩

/-! ## Writes as an address and a word (R65) -/

theorem isCommand_of_isWrite {i : Instr} (h : isWrite i = true) : isCommand i = true := by
  cases i with
  | rd a => cases h
  | _ => rfl

theorem encode_of_isWrite {i : Instr} (h : isWrite i = true) : ∃ a d, encode i = .command (encodeWrite a d) := by
  cases i with
  | reset => cases h
  | tick => cases h
  | wrPinc d => exact ⟨0x0#4, d, rfl⟩
  | wrPmax d => exact ⟨0x1#4, d, rfl⟩
  | wrGain d => exact ⟨0x2#4, d, rfl⟩
  | wrOffs d => exact ⟨0x3#4, d, rfl⟩
  | wrIgn4 a d => exact ⟨a, d, rfl⟩
  | wrIgn8 a d => exact ⟨a, d, rfl⟩
  | wrIgnC a d => exact ⟨a, d, rfl⟩
  | nop => cases h
  | rd a => cases h

/-- The round trip of `decode_encode`, read the other way: the address and the word of its encoding name the write. -/
theorem decodeWrite_of_encode {i : Instr} {a : Addr} {d : Word} (henc : encode i = .command (encodeWrite a d))
    (hwf : i.wellFormed = true) : decodeWrite a d = i := by
  have hround := decode_encode i hwf
  rw [henc, decode, decodeCommand_encodeWrite] at hround
  exact List.singleton_inj.mp hround

theorem isWrite_decodeWrite (a : Addr) (d : Word) : isWrite (decodeWrite a d) = true := by
  rcases decodeWrite_cases a d with ⟨-, h⟩ | ⟨-, h⟩ | ⟨-, h⟩ | ⟨-, h⟩ | ⟨-, h⟩ | ⟨-, h⟩ | ⟨-, h⟩ <;>
    rw [h] <;> rfl

theorem wellFormed_decodeWrite (a : Addr) (d : Word) : (decodeWrite a d).wellFormed = true := by
  rcases decodeWrite_cases a d with
    ⟨-, h⟩ | ⟨-, h⟩ | ⟨-, h⟩ | ⟨-, h⟩ | ⟨hrow, h⟩ | ⟨hrow, h⟩ | ⟨hrow, h⟩ <;> rw [h] <;>
    simp [Instr.wellFormed, *]

/-! ## The command word of a line (R65) -/

theorem commandOf_of_encode {i : Instr} {w : Command} (h : encode i = .command w) : commandOf i = w := by
  rw [commandOf, h]

theorem encode_of_isCommand {i : Instr} (h : isCommand i = true) : encode i = .command (commandOf i) := by
  cases i with
  | rd a => cases h
  | _ => rfl

theorem decodeCommand_commandOf {i : Instr} (hcmd : isCommand i = true) (hwf : i.wellFormed = true) :
    decodeCommand (commandOf i) = [i] := by
  have hround := decode_encode i hwf
  rwa [encode_of_isCommand hcmd] at hround

/-- The word of `TICK` or-ed with that of a write has both bits set and the write's fields. -/
theorem decodeCommand_tick_or_write {j : Instr} (hwrite : isWrite j = true) (hwf : j.wellFormed = true) :
    decodeCommand (commandOf .tick ||| commandOf j) = [.tick, j] := by
  obtain ⟨a, d, henc⟩ := encode_of_isWrite hwrite
  have hword : commandOf .tick ||| commandOf j = packCommand false true true a d :=
    calc commandOf .tick ||| commandOf j
        = packCommand false true false 0 0 ||| packCommand false false true a d := by
          rw [commandOf_of_encode henc, commandOf_of_encode (i := .tick) rfl, encodeWrite]
      _ = packCommand false true true a d := by rw [packCommand_or]; simp
  rw [hword, decodeCommand_pack, decodeWrite_of_encode henc hwf]
  rfl

theorem decodeCommand_encodeOps {l : Line} (h : l.wellFormed = true) : decodeCommand (encodeOps l.cmds) = l.cmds := by
  have hlast : ∀ i, encodeOps [i] = commandOf i := fun i => BitVec.or_zero
  rcases Line.wellFormed_cases h with ⟨i, hcmds, hcmd, hwf⟩ | ⟨j, hcmds, hwrite, hwf⟩
  · rw [hcmds, hlast, decodeCommand_commandOf hcmd hwf]
  · rw [hcmds, encodeOps, hlast, decodeCommand_tick_or_write hwrite hwf]

theorem cycleOps_assemble {l : Line} (h : l.wellFormed = true) :
    cycleOps l.assemble = .rd (l.rd.getD 0) :: l.cmds := by
  rw [cycleOps, Line.assemble, decodeCommand_encodeOps h, decodeRead]

/-- The operations of a command word are a well-formed line, whatever the word (R66). -/
theorem wellFormed_decodeCommand (w : Command) : (Line.mk (decodeCommand w) none).wellFormed = true := by
  rw [← packCommand_fields w, decodeCommand_pack]
  cases cmdRst w with
  | true => rfl
  | false =>
    cases cmdTick w <;> cases cmdWe w
    · rfl
    · simp [Line.wellFormed, isCommand_of_isWrite, isWrite_decodeWrite, wellFormed_decodeWrite]
    · rfl
    · simp [Line.wellFormed, isWrite_decodeWrite, wellFormed_decodeWrite]

end Sys2Proof.Machine

section
open Sys2Proof Sys2Proof.Machine

/-- Settles O2: the read word as it stands, and the command word by `decodeCommand_encodeOps`. -/
theorem lineAssemblesToItsOperations : Obligations.LineAssemblesToItsOperations := fun _ => cycleOps_assemble

/-- Settles O5: what a command word decodes to is a well-formed line, whose word decodes to it. -/
theorem decodedOperationsReencode : Obligations.DecodedOperationsReencode := by
  intro w
  have hline := wellFormed_decodeCommand w
  have hround := decodeCommand_encodeOps hline
  exact ⟨Line.wellFormed_cmds hline, hround⟩

/-- Settles O6: decoding reads `RST` first, and `ADDR` and `WDATA` with `WE = 1` only. -/
theorem dontCareBitsIgnored : Obligations.DontCareBitsIgnored := by
  intro t e t' e' a a' d d'
  constructor
  · rw [decodeCommand_of_rst (cmdRst_pack ..), decodeCommand_of_rst (cmdRst_pack ..)]
  · rw [decodeCommand_pack, decodeCommand_pack]
    cases t <;> rfl

/-- Settles O7: closed words, by evaluation. -/
theorem sampleWordsDecode : Obligations.SampleWordsDecode := by
  unfold Obligations.SampleWordsDecode
  decide

end
end

section
/-!
PROOFS. The reader of listings against the printed text (30_encoding.md R68): the tokens of a printed line, command by
command, and what the reader makes of them.
-/

namespace Sys2Proof.Machine

/-! ## Separators and marks -/

theorem tokens_space (rest : List Char) : tokens [] (' ' :: rest) = tokens [] rest := by
  simp [tokens, flushToken]

theorem tokens_comma (rest : List Char) : tokens [] (',' :: rest) = [','] :: tokens [] rest := by
  simp [tokens, flushToken, isMark]

theorem tokens_hash (rest : List Char) : tokens [] ('#' :: rest) = ['#'] :: tokens [] rest := by
  simp [tokens, flushToken, isMark]

theorem tokens_at (rest : List Char) : tokens [] ('@' :: rest) = ['@'] :: tokens [] rest := by
  simp [tokens, flushToken, isMark]

theorem tokens_bars (rest : List Char) : tokens [] ('|' :: '|' :: rest) = ['|', '|'] :: tokens [] rest := by
  simp [tokens, flushToken]

/-- `tokens_word` with its condition as a check that evaluates on a given name. -/
theorem tokens_name (w rest : List Char) (hw : w ≠ []) (hplain : w.all isPlain = true) (hr : endsWord rest) :
    tokens [] (w ++ rest) = w :: tokens [] rest :=
  tokens_word w rest hw (List.all_eq_true.mp hplain) hr

theorem tokens_number (n : Nat) (rest : List Char) (h : endsWord rest) :
    tokens [] (Nat.toDigits 10 n ++ rest) = Nat.toDigits 10 n :: tokens [] rest :=
  tokens_word _ rest Nat.toDigits_ne_nil (isPlain_toDigits n) h

/-! ## The tokens of a command -/

/-- The tokens of a printed immediate. -/
def immTokens (d : Word) : List (List Char) := [['#'], Nat.toDigits 10 d.toNat]

/-- The tokens of a printed `WR @a, #d`. -/
def writeTokens (a : Addr) (d : Word) : List (List Char) :=
  "WR".toList :: ['@'] :: Nat.toDigits 10 a.toNat :: [','] :: immTokens d

/-- The tokens of a printed command. A line has its `RD` outside its commands. -/
def commandTokens : Instr → List (List Char)
  | .reset => ["RESET".toList]
  | .tick => ["TICK".toList]
  | .wrPinc d => "WR_PINC".toList :: immTokens d
  | .wrPmax d => "WR_PMAX".toList :: immTokens d
  | .wrGain d => "WR_GAIN".toList :: immTokens d
  | .wrOffs d => "WR_OFFS".toList :: immTokens d
  | .wrIgn4 a d => writeTokens a d
  | .wrIgn8 a d => writeTokens a d
  | .wrIgnC a d => writeTokens a d
  | .nop => ["NOP".toList]
  | .rd _ => []

theorem tokens_imm (d : Word) (rest : List Char) (h : endsWord rest) :
    tokens [] ('#' :: (Nat.toDigits 10 d.toNat ++ rest)) = immTokens d ++ tokens [] rest := by
  rw [tokens_hash, tokens_number _ _ h]
  rfl

/-- A name, a space and an immediate. -/
theorem tokens_namedImm (w : List Char) (hw : w ≠ []) (hplain : w.all isPlain = true) (d : Word) (rest : List Char)
    (h : endsWord rest) :
    tokens [] (w ++ ' ' :: '#' :: (Nat.toDigits 10 d.toNat ++ rest)) = w :: immTokens d ++ tokens [] rest := by
  rw [tokens_name w _ hw hplain (.inr (.inr ⟨_, rfl⟩)), tokens_space, tokens_imm d rest h]
  rfl

theorem tokens_writeText (a : Addr) (d : Word) (rest : List Char) (h : endsWord rest) :
    tokens [] ((writeText a d).toList ++ rest) = writeTokens a d ++ tokens [] rest := by
  have htext : (writeText a d).toList ++ rest =
      "WR".toList ++ ' ' :: '@' :: (Nat.toDigits 10 a.toNat ++
        ',' :: ' ' :: '#' :: (Nat.toDigits 10 d.toNat ++ rest)) := by
    simp [writeText]
  rw [htext, tokens_name _ _ (by decide) (by decide) (.inr (.inr ⟨_, rfl⟩)), tokens_space, tokens_at,
    tokens_number _ _ (.inr (.inl ⟨_, rfl⟩)), tokens_comma, tokens_space, tokens_imm d rest h]
  rfl

theorem tokens_instrText {i : Instr} (hcmd : isCommand i = true) (rest : List Char) (h : endsWord rest) :
    tokens [] ((instrText i).toList ++ rest) = commandTokens i ++ tokens [] rest := by
  have hname : ∀ (w : String) (d : Word), w.toList ≠ [] → w.toList.all isPlain = true →
      tokens [] ((w ++ " #" ++ toString d.toNat).toList ++ rest) = w.toList :: immTokens d ++ tokens [] rest := by
    intro w d hw hplain
    rw [← tokens_namedImm _ hw hplain d rest h]
    simp
  cases i with
  | reset => exact tokens_name _ rest (by decide) (by decide) h
  | tick => exact tokens_name _ rest (by decide) (by decide) h
  | wrPinc d => exact hname "WR_PINC" d (by decide) (by decide)
  | wrPmax d => exact hname "WR_PMAX" d (by decide) (by decide)
  | wrGain d => exact hname "WR_GAIN" d (by decide) (by decide)
  | wrOffs d => exact hname "WR_OFFS" d (by decide) (by decide)
  | wrIgn4 a d => exact tokens_writeText a d rest h
  | wrIgn8 a d => exact tokens_writeText a d rest h
  | wrIgnC a d => exact tokens_writeText a d rest h
  | nop => exact tokens_name _ rest (by decide) (by decide) h
  | rd a => cases hcmd

/-! ## Reading a command back -/

theorem parseAddr_toDigits (a : Addr) : parseAddr (Nat.toDigits 10 a.toNat) = some a := by
  simp [parseAddr, parseNumber_toDigits, a.isLt]

theorem parseWrite_immTokens (a : Addr) (d : Word) (ts : List (List Char)) :
    parseWrite a (immTokens d ++ ts) = some (decodeWrite a d, ts) := by
  have himm : parseImm (immTokens d ++ ts) = some (d, ts) := parseImm_toDigits d ts
  rw [parseWrite, himm]
  rfl

/-- `WR @a, #d` is read as the write whose encoding has that address and that word. -/
theorem parseCmd_writeTokens {i : Instr} {a : Addr} {d : Word} (henc : encode i = .command (encodeWrite a d))
    (hwf : i.wellFormed = true) (ts : List (List Char)) : parseCmd (writeTokens a d ++ ts) = some (i, ts) := by
  have hcmd : parseCmd (writeTokens a d ++ ts) =
      (parseAddr (Nat.toDigits 10 a.toNat)).bind fun a => parseWrite a (immTokens d ++ ts) := rfl
  rw [hcmd, parseAddr_toDigits, Option.bind_some, parseWrite_immTokens, decodeWrite_of_encode henc hwf]

theorem parseCmd_commandTokens {i : Instr} (hcmd : isCommand i = true) (hwf : i.wellFormed = true)
    (ts : List (List Char)) : parseCmd (commandTokens i ++ ts) = some (i, ts) := by
  cases i with
  | reset => rfl
  | tick => rfl
  | wrPinc d => exact parseWrite_immTokens 0x0#4 d ts
  | wrPmax d => exact parseWrite_immTokens 0x1#4 d ts
  | wrGain d => exact parseWrite_immTokens 0x2#4 d ts
  | wrOffs d => exact parseWrite_immTokens 0x3#4 d ts
  | wrIgn4 a d => exact parseCmd_writeTokens rfl hwf ts
  | wrIgn8 a d => exact parseCmd_writeTokens rfl hwf ts
  | wrIgnC a d => exact parseCmd_writeTokens rfl hwf ts
  | nop => rfl
  | rd a => cases hcmd

/-! ## The read of a line -/

/-- The printed `RD` part of a line. -/
def rdText : Option Addr → String
  | none => ""
  | some a => ", " ++ instrText (.rd a)

theorem endsWord_rdText (rd : Option Addr) : endsWord (rdText rd).toList := by
  cases rd with
  | none => exact .inl rfl
  | some a => exact .inr (.inl ⟨_, by rw [rdText, String.toList_append]; rfl⟩)

/-- The sixteen printed reads, each read back. -/
theorem parseRd_rdText (rd : Option Addr) : parseRd (tokens [] (rdText rd).toList) = some rd := by
  cases rd with
  | none => rfl
  | some a =>
    revert a
    decide +kernel

/-! ## Reading a line back -/

theorem makeLine_of_wellFormed {l : Line} (h : l.wellFormed = true) : makeLine l.cmds l.rd = some l := by
  have hswap : ∀ i, l.cmds ≠ [i, .tick] := by
    intro i hi
    rcases Line.wellFormed_cases h with ⟨k, hcmds, -⟩ | ⟨j, hcmds, hwrite, -⟩
    · cases hi.symm.trans hcmds
    · cases hi.symm.trans hcmds
      cases hwrite
  unfold makeLine
  split
  · next i hcmds => exact absurd hcmds (hswap i)
  · exact if_pos h

theorem parseTokens_single {i : Instr} {ts ts' : List (List Char)} {rd : Option Addr}
    (hcmd : parseCmd ts = some (i, ts')) (hrd : parseRd ts' = some rd) : parseTokens ts = makeLine [i] rd := by
  unfold parseTokens
  split
  · next h => rw [hcmd] at h; cases h
  · next j us h =>
    cases hcmd.symm.trans h
    cases hrd
  · next j us _ h =>
    cases hcmd.symm.trans h
    rw [hrd, Option.bind_some]

theorem parseTokens_pair {i j : Instr} {ts ts' ts'' : List (List Char)} {rd : Option Addr}
    (hfirst : parseCmd ts = some (i, ['|', '|'] :: ts')) (hsecond : parseCmd ts' = some (j, ts''))
    (hrd : parseRd ts'' = some rd) : parseTokens ts = makeLine [i, j] rd := by
  simp only [parseTokens, hfirst, hsecond, hrd, Option.bind_some]

/-- What the grammar of one line accepts is never the abbreviation `TICK * n`. -/
theorem parseLine_of_parseTokens {text : String} {l : Line} (h : parseTokens (tokens [] text.toList) = some l) :
    parseLine text = some [l] := by
  unfold parseLine
  split
  · next t htokens =>
    rw [htokens] at h
    cases h
  · rw [h, Option.map_some]

theorem Line.toList_text (l : Line) :
    l.text.toList = (String.intercalate " || " (l.cmds.map instrText)).toList ++ (rdText l.rd).toList := by
  obtain ⟨cmds, rd⟩ := l
  cases rd <;> simp [Line.text, rdText]

theorem parseTokens_text {l : Line} (h : l.wellFormed = true) :
    parseTokens (tokens [] l.text.toList) = some l := by
  have hend := endsWord_rdText l.rd
  have hrd := parseRd_rdText l.rd
  rw [← makeLine_of_wellFormed h, Line.toList_text]
  rcases Line.wellFormed_cases h with ⟨i, hcmds, hcmd, hwf⟩ | ⟨j, hcmds, hwrite, hwf⟩
  · have htext : String.intercalate " || " (l.cmds.map instrText) = instrText i := by simp [hcmds]
    rw [htext, tokens_instrText hcmd _ hend, hcmds]
    exact parseTokens_single (parseCmd_commandTokens hcmd hwf _) hrd
  · have htext : (String.intercalate " || " (l.cmds.map instrText)).toList ++ (rdText l.rd).toList =
        (instrText .tick).toList ++ ' ' :: '|' :: '|' :: ' ' :: ((instrText j).toList ++ (rdText l.rd).toList) := by
      simp [hcmds]
    have hcmd := isCommand_of_isWrite hwrite
    rw [htext, tokens_instrText rfl _ (.inr (.inr ⟨_, rfl⟩)), tokens_space, tokens_bars, tokens_space,
      tokens_instrText hcmd _ hend, hcmds]
    exact parseTokens_pair (parseCmd_commandTokens rfl rfl _) (parseCmd_commandTokens hcmd hwf _) hrd

/-! ## What the reader accepts -/

theorem wellFormed_of_makeLine {cmds : List Instr} {rd : Option Addr} {l : Line} (h : makeLine cmds rd = some l) :
    l.wellFormed = true := by
  unfold makeLine at h
  dsimp only at h
  split_ifs at h with hwf
  cases h
  exact hwf

theorem wellFormed_of_parseTokens {ts : List (List Char)} {l : Line} (h : parseTokens ts = some l) :
    l.wellFormed = true := by
  unfold parseTokens at h
  split at h
  · cases h
  · split at h
    · cases h
    · obtain ⟨rd, -, hline⟩ := Option.bind_eq_some_iff.mp h
      exact wellFormed_of_makeLine hline
  · obtain ⟨rd, -, hline⟩ := Option.bind_eq_some_iff.mp h
    exact wellFormed_of_makeLine hline

theorem wellFormed_of_parseLine {text : String} {ls : List Line} (h : parseLine text = some ls) :
    ∀ l ∈ ls, l.wellFormed = true := by
  intro l hl
  unfold parseLine at h
  split at h
  · obtain ⟨n, -, rfl⟩ := Option.map_eq_some_iff.mp h
    rw [List.eq_of_mem_replicate hl]
    rfl
  · obtain ⟨l', hline, rfl⟩ := Option.map_eq_some_iff.mp h
    rw [List.mem_singleton.mp hl]
    exact wellFormed_of_parseTokens hline

end Sys2Proof.Machine

section
open Sys2Proof Sys2Proof.Machine

/-- Settles O3: the printed text by `parseTokens_text`, accepted text by `wellFormed_of_parseLine`, and the sample lines
by evaluation. -/
theorem listingTextReadsAsItsLines : Obligations.ListingTextReadsAsItsLines := by
  refine ⟨fun l h => parseLine_of_parseTokens (parseTokens_text h), fun text ls h l hl => ?_, by decide +kernel⟩
  have hwf := wellFormed_of_parseLine h l hl
  exact ⟨hwf, cycleOps_assemble hwf⟩

end
end

section
/-!
PROOFS. One cycle as a register transfer (10_state.md R11, R19; 30_encoding.md R64; 60_exceptions.md R151;
70_reset_and_hazards.md R171): what the operations of a command word leave in each part of the state, and which part of
the state before they read.
-/

namespace Sys2Proof.Machine

/-! ## A cycle from its operations (R64) -/

theorem step_of_runOps {s t : State} (h : runOps (cycleOps (nextInput s)) (beginCycle s) = .next t) :
    step s = .next (noteTimer (nextInput s) t) :=
  (step_next s _).mpr ⟨t, h, rfl⟩

/-- The read of a cycle answers first; the command word's operations run from there. -/
theorem step_of_command {s t : State} {w : Command} {r : ReadWord} (h : nextInput s = { command := w, read := r })
    (hrun : runOps (decodeCommand w) ((beginCycle s).driveRdata (regRead s.regs r)) = .next t) :
    step s = .next (noteTimer { command := w, read := r } t) := by
  rw [← h]
  refine step_of_runOps ?_
  rw [h]
  exact (runOps_cons_next _ _ _ _).mpr ⟨_, exec_rd r (beginCycle s), hrun⟩

/-- A cycle reads the list of inputs through its first vector and its tail only. -/
theorem step_congr {s t : State} (hnext : nextInput s = nextInput t) (hbegin : beginCycle s = beginCycle t) :
    step s = step t := by
  rw [step, step, runCycle, runCycle, runCycleWith, runCycleWith, hnext, hbegin]

/-- The order of R64, bit by bit of the command word. -/
theorem decodeCommand_eq_append (w : Command) :
    decodeCommand w =
      if cmdRst w then [.reset]
      else (if cmdTick w then [.tick] else []) ++
        (if cmdWe w then [decodeWrite (cmdAddr w) (cmdWdata w)] else []) ++
        (if !cmdTick w && !cmdWe w then [.nop] else []) := by
  rw [decodeCommand]
  cases cmdRst w <;> cases cmdTick w <;> cases cmdWe w <;> rfl

/-! ## What a command word leaves, field by field -/

/-- The four parameter registers after a write, each by its own address (R41). -/
theorem regWrite_regs (s : State) (a : Addr) (d : Word) :
    (s.regWrite a d).regs =
      { s.regs with
        pinc := if a == 0x0#4 then d else s.regs.pinc
        pmax := if a == 0x1#4 then d else s.regs.pmax
        gain := if a == 0x2#4 then d else s.regs.gain
        offs := if a == 0x3#4 then d else s.regs.offs } := by
  rcases regWrite_cases s a d with ⟨rfl, h⟩ | ⟨rfl, h⟩ | ⟨rfl, h⟩ | ⟨rfl, h⟩ | ⟨ha, h⟩ <;> rw [h]
  · rfl
  · rfl
  · rfl
  · rfl
  · have hne : ∀ b : Addr, b.toNat < 4 → (a == b) = false := by
      intro b hb
      rw [beq_eq_false_iff_ne]
      rintro rfl
      omega
    rw [hne 0x0#4 (by decide), hne 0x1#4 (by decide), hne 0x2#4 (by decide), hne 0x3#4 (by decide)]
    rfl

@[simp] theorem regWrite_inputs (s : State) (a : Addr) (d : Word) : (s.regWrite a d).inputs = s.inputs := by
  obtain ⟨-, -, -, h⟩ := regWrite_frame s a d
  exact h

@[simp] theorem regWrite_timerAwaiting (s : State) (a : Addr) (d : Word) :
    (s.regWrite a d).timerAwaiting = s.timerAwaiting := by
  obtain ⟨-, -, h, -⟩ := regWrite_frame s a d
  exact h

theorem commandEffect_inputs (rst tk we : Bool) (a : Addr) (d : Word) (s : State) :
    (commandEffect rst tk we a d s).inputs = s.inputs := by
  cases rst <;> cases tk <;> cases we <;> simp [commandEffect]

theorem commandEffect_timerAwaiting (rst tk we : Bool) (a : Addr) (d : Word) (s : State) :
    (commandEffect rst tk we a d s).timerAwaiting = s.timerAwaiting := by
  cases rst <;> cases tk <;> cases we <;> simp [commandEffect]

/-- The eleven registers after the operations of a command word, `TICK`'s share given by `dispatchSamples`. -/
theorem commandEffect_regs (rst tk we : Bool) (a : Addr) (d : Word) (s : State) :
    (commandEffect rst tk we a d s).regs =
      if rst then Regs.reset
      else
        { (if tk then (dispatchSamples hardwareConfig s).regs else s.regs) with
          pinc := if we && a == 0x0#4 then d else s.regs.pinc
          pmax := if we && a == 0x1#4 then d else s.regs.pmax
          gain := if we && a == 0x2#4 then d else s.regs.gain
          offs := if we && a == 0x3#4 then d else s.regs.offs } := by
  cases rst <;> cases tk <;> cases we <;> simp [commandEffect, regWrite_regs]

theorem commandEffect_regs_congr {s t : State} (h : s.regs = t.regs) (rst tk we : Bool) (a : Addr) (d : Word) :
    (commandEffect rst tk we a d s).regs = (commandEffect rst tk we a d t).regs := by
  rw [commandEffect_regs, commandEffect_regs, h, dispatchSamples_regs_congr h]

/-! ## A cycle on any input vector -/

/-- The state after a cycle, from the fields of its command word. -/
def cycleEffect (inp : Input) (s : State) : State :=
  noteTimer inp
    (commandEffect (cmdRst inp.command) (cmdTick inp.command) (cmdWe inp.command) (cmdAddr inp.command)
      (cmdWdata inp.command) ((beginCycle s).driveRdata (regRead s.regs inp.read)))

theorem step_eq_cycleEffect (s : State) : step s = .next (cycleEffect (nextInput s) s) := by
  have hfields := packCommand_fields (nextInput s).command
  have hstep := step_presented s _ _ _ _ _ (nextInput s).read (by rw [hfields])
  rwa [hfields] at hstep

theorem cycleEffect_regs_congr {s t : State} (h : s.regs = t.regs) (inp : Input) :
    (cycleEffect inp s).regs = (cycleEffect inp t).regs :=
  commandEffect_regs_congr (by simpa using h) _ _ _ _ _

theorem cycleEffect_pins_congr {s t : State} (h : s.regs = t.regs) (inp : Input) :
    (cycleEffect inp s).pins = (cycleEffect inp t).pins := by
  rw [cycleEffect, cycleEffect, noteTimer_pins, noteTimer_pins, commandEffect_pins _ _ _ _ _ _ rfl,
    commandEffect_pins _ _ _ _ _ _ rfl]
  simp [h]

/-- The events a cycle adds (R134). -/
def cycleEvents (inp : Input) (r : Regs) : List Event :=
  if !cmdRst inp.command && cmdTick inp.command then tickEvents r else []

theorem cycleEffect_events (inp : Input) (s : State) :
    (cycleEffect inp s).events = s.events ++ cycleEvents inp s.regs := by
  rw [cycleEffect, noteTimer_events, commandEffect_events]
  rfl

theorem cycleEffect_inputs (inp : Input) (s : State) : (cycleEffect inp s).inputs = s.inputs.tail := by
  rw [cycleEffect, noteTimer_inputs, commandEffect_inputs]
  rfl

/-- TIMER's bit after a cycle (R151): a tick is acknowledged in its own cycle unless `RST = 1`. -/
theorem cycleEffect_timerAwaiting (inp : Input) (s : State) :
    (cycleEffect inp s).timerAwaiting = if cmdTick inp.command then cmdRst inp.command else s.timerAwaiting := by
  rw [cycleEffect, noteTimer_timerAwaiting, commandEffect_timerAwaiting, commandEffect_pins _ _ _ _ _ _ rfl]
  cases cmdTick inp.command <;> cases cmdRst inp.command <;> simp

/-! ## Runs over a list of presented vectors -/

/-- What every cycle of a kind leaves of the state is left by a run of such cycles. -/
theorem run_presented {α β : Type} (f : α → Input) (view : State → β)
    (hkeep : ∀ (x : α) (s : State), view (cycleEffect (f x) s) = view s) (xs : List α) (s : State)
    (rest : List Input) (h : s.inputs = xs.map f ++ rest) :
    ∃ t : State, Sys2Proof.core.run xs.length s = .next t ∧ view t = view s := by
  induction xs generalizing s with
  | nil => exact ⟨s, rfl, rfl⟩
  | cons x xs ih =>
    have hstep : step s = .next (cycleEffect (f x) s) := by
      rw [step_eq_cycleEffect, nextInput_cons s _ _ h]
    obtain ⟨t, hrun, hview⟩ := ih (cycleEffect (f x) s) (by rw [cycleEffect_inputs, h]; rfl)
    exact ⟨t, (core_run_succ xs.length s _ hstep).trans hrun, hview.trans (hkeep x s)⟩

/-! ## The registers of the two roles (R160) -/

/-- The registers a dispatcher's cycle writes. -/
def Regs.datapath (r : Regs) : List Word :=
  [r.phase, r.sample1, r.sample2, r.sample3, r.dacLast1, r.dacLast2, r.dacLast3]

/-- The registers a host's cycle writes. -/
def Regs.params (r : Regs) : List Word := [r.pinc, r.pmax, r.gain, r.offs]

theorem cycleEffect_hostVector_datapath (x : Bool × Addr × Word × ReadWord) (s : State) :
    (cycleEffect (hostVector x) s).regs.datapath = s.regs.datapath := by
  rw [cycleEffect, noteTimer_regs, commandEffect_regs]
  simp [hostVector, Regs.datapath]

theorem cycleEffect_hostVector_events (x : Bool × Addr × Word × ReadWord) (s : State) :
    (cycleEffect (hostVector x) s).events = s.events := by
  rw [cycleEffect_events]
  simp [cycleEvents, hostVector]

/-- The input vector of a cycle with neither reset nor write: `TICK`, the don't-care bits and the read word are free. -/
def dispatcherVector (x : Bool × Addr × Word × ReadWord) : Input :=
  { command := packCommand false x.1 false x.2.1 x.2.2.1, read := x.2.2.2 }

theorem cycleEffect_dispatcherVector_params (x : Bool × Addr × Word × ReadWord) (s : State) :
    (cycleEffect (dispatcherVector x) s).regs.params = s.regs.params := by
  rw [cycleEffect, noteTimer_regs, commandEffect_regs]
  simp [dispatcherVector, Regs.params]

theorem cycleEffect_idleVector_timerAwaiting (x : Addr × Word × ReadWord) (s : State) :
    (cycleEffect (idleVector x) s).timerAwaiting = s.timerAwaiting := by
  rw [cycleEffect_timerAwaiting]
  simp [idleVector]

/-! ## Reading back what was written (R44) -/

theorem regWrite_idempotent (s : State) (a : Addr) (d : Word) : (s.regWrite a d).regWrite a d = s.regWrite a d := by
  by_cases hignored : 4 ≤ a.toNat
  · rw [regWrite_ignored _ a d hignored]
  · have haddr : a = 0x0#4 ∨ a = 0x1#4 ∨ a = 0x2#4 ∨ a = 0x3#4 := by bv_omega
    rcases haddr with rfl | rfl | rfl | rfl <;> rfl

theorem regRead_regWrite (s : State) (a : Addr) (d : Word) (h : a.toNat < 4) : regRead (s.regWrite a d).regs a = d := by
  have haddr : a = 0x0#4 ∨ a = 0x1#4 ∨ a = 0x2#4 ∨ a = 0x3#4 := by bv_omega
  rcases haddr with rfl | rfl | rfl | rfl <;> rfl

end Sys2Proof.Machine

section
open Sys2Proof Sys2Proof.Machine

/-- Settles O8: the operations are those of `decodeCommand_eq_append`, and a cycle is their run (`step_of_runOps`). -/
theorem cyclePerformsOperationsInOrder : Obligations.CyclePerformsOperationsInOrder := by
  intro s w r rest ops start
  have hops : ops = cycleOps { command := w, read := r } :=
    congrArg (Instr.rd r :: ·) (decodeCommand_eq_append w).symm
  obtain ⟨t, hrun⟩ := runOpsWith_total exec_total ops start
  refine ⟨t, hrun, ?_⟩
  rw [hops] at hrun
  exact step_of_runOps (s := { s with inputs := { command := w, read := r } :: rest }) hrun

/-- Settles O9: `step_of_command` with one decoded operation and with two; the idle cycle is `step_congr`. -/
theorem stepRunsDecodedOperation : Obligations.StepRunsDecodedOperation := by
  intro s w r rest start noted
  have hstep : ∀ t, runOps (decodeCommand w) start = .next t →
      step { s with inputs := { command := w, read := r } :: rest } = .next (noted t) := fun t hrun =>
    step_of_command (s := { s with inputs := { command := w, read := r } :: rest }) rfl hrun
  refine ⟨fun i t hdecode hexec => hstep t ?_, fun i j t u hdecode hfirst hsecond => hstep u ?_,
    step_congr rfl rfl, ?_, ?_⟩
  · rw [hdecode]
    exact (runOps_cons_next _ _ _ _).mpr ⟨t, hexec, runOps_nil t⟩
  · rw [hdecode]
    exact (runOps_cons_next _ _ _ _).mpr ⟨t, hfirst, (runOps_cons_next _ _ _ _).mpr ⟨u, hsecond, runOps_nil u⟩⟩
  · have hinput : tableInput 24 w.toNat = { command := w, read := 0 } := by simp [tableInput]
    rw [State.withFetchWord, hinput, State.setInputs]
  · have hinput : tableInput 8 r.toNat = { command := 0, read := r } := by simp [tableInput]
    rw [State.withFetchWord, hinput, State.setInputs]

/-- Settles O11: the step is `step_presented`, its registers `commandEffect_regs`; `TICK` reads registers alone, so its
share is the same from the state before the cycle. -/
theorem cycleIsOneRegisterTransfer : Obligations.CycleIsOneRegisterTransfer := by
  intro s rst tk we a d r rest
  refine ⟨_, _, step_presented _ rst tk we a d r rfl, exec_tick s, ?_, ?_⟩
  · rw [noteTimer_inputs, commandEffect_inputs]
    rfl
  · rw [noteTimer_regs, commandEffect_regs]
    cases rst
    · cases tk <;> simp
    · rfl

/-- Settles O13: registers and pins after a cycle depend on the registers alone (`cycleEffect_regs_congr`,
`cycleEffect_pins_congr`), and the events are added to whatever was there. -/
theorem observerStateNeverRead : Obligations.ObserverStateNeverRead := by
  intro g l p p' e e' b b'
  have hregs : (State.mk g p e b l).regs = (State.mk g p' e' b' l).regs := rfl
  refine ⟨_, _, _, step_eq_cycleEffect _, step_eq_cycleEffect _, cycleEffect_regs_congr hregs _,
    cycleEffect_pins_congr hregs _, ?_, cycleEffect_events _ _, cycleEffect_events _ _⟩
  rw [cycleEffect_inputs, cycleEffect_inputs]

/-- Settles O16: with `RST = 1` the command word's effect is to clear the registers, and nothing acknowledges the
tick. -/
theorem resetWinsItsCycle : Obligations.ResetWinsItsCycle := by
  intro s tk we a d r rest
  rw [step_presented _ true tk we a d r rfl]
  congr 1
  rw [commandEffect, if_pos rfl, noteTimer, cmdTick_pack]
  cases tk <;> rfl

/-- Settles O24: a write by its address is `RegWrite`, which is idempotent; a read drives `rdata` alone. -/
theorem writesReadBackAndAreIdempotent : Obligations.WritesReadBackAndAreIdempotent := by
  intro a d s
  refine ⟨_, exec_decodeWrite a d s, ?_, fun ha => ⟨_, exec_rd a _, regRead_regWrite s a d ha, rfl⟩,
    _, _, exec_rd a s, exec_rd a _, rfl, rfl, rfl⟩
  rw [exec_decodeWrite, regWrite_idempotent]

/-- Settles O25: each role's cycles leave the other role's registers, one by one (`cycleEffect_hostVector_datapath`,
`cycleEffect_dispatcherVector_params`), so runs of them do (`run_presented`). -/
theorem rolesStaySeparate : Obligations.RolesStaySeparate := by
  refine ⟨fun host s rest => ?_, fun ticks s rest => ?_⟩
  · obtain ⟨t, hrun, hview⟩ := run_presented hostVector (fun u => (u.regs.datapath, u.events))
      (fun x u => Prod.ext (cycleEffect_hostVector_datapath x u) (cycleEffect_hostVector_events x u)) host
      { s with inputs := host.map hostVector ++ rest } rest rfl
    refine ⟨t, hrun, ?_⟩
    simpa [Regs.datapath, and_assoc] using hview
  · obtain ⟨t, hrun, hview⟩ := run_presented dispatcherVector (fun u => u.regs.params)
      cycleEffect_dispatcherVector_params ticks { s with inputs := ticks.map dispatcherVector ++ rest } rest rfl
    refine ⟨t, hrun, ?_⟩
    simpa [Regs.params] using hview

/-- Settles O49: the bit after a cycle is `cycleEffect_timerAwaiting`; a TIMER that keeps its contract presents no tick
under reset, and idle cycles present none. -/
theorem timerWaitsOnlyAfterResetTick : Obligations.TimerWaitsOnlyAfterResetTick := by
  refine ⟨fun s rst tk we a d r rest => ⟨_, step_eq_cycleEffect _, ?_⟩, fun s t hlive hcontract hstep => ?_,
    fun idle s rest => ?_⟩
  · rw [cycleEffect_timerAwaiting, nextInput_cons _ _ _ rfl]
    cases tk <;> simp
  · rw [step_eq_cycleEffect] at hstep
    cases hstep
    simp only [timerLive, timerContract, Bool.or_eq_true, Bool.and_eq_true, Bool.not_eq_true'] at hlive hcontract ⊢
    rw [cycleEffect_timerAwaiting]
    rcases hcontract with htick | ⟨-, hrst⟩
    · simp [htick, hlive]
    · simp [hrst, hlive]
  · exact run_presented idleVector State.timerAwaiting cycleEffect_idleVector_timerAwaiting idle
      { s with inputs := idle.map idleVector ++ rest } rest rfl

end
end

section
/-!
PROOFS. The rest of the generator (40_phase_accumulator.md R83; 41_sine_interpolator.md R91, R92;
42_three_phase_generator.md R103): the phase run backward, the symmetries of the table and of the sine, and the samples
at zero frequency, at zero gain and before any parameter arrives.
-/

namespace Sys2Proof.Machine

/-! ## The phase run backward (R83) -/

theorem uint_nextPhase (r : Regs) :
    uint (nextPhase r) = (uint r.phase + sint r.pinc * uint r.pmax / 32768) % 65536 := by
  rw [nextPhase_eq_word, uint_word]

/-- The negative of a floor is the floor of the negative, or one more. -/
theorem neg_ediv_eq_or (n : Int) : -(n / 32768) = -n / 32768 ∨ -(n / 32768) = -n / 32768 + 1 := by
  omega

/-! ## The table as a list of 256 integers (R91) -/

theorem getElem_sineEntries_range {i : Nat} (h : i < sineEntries.length) :
    -32768 ≤ sineEntries[i] ∧ sineEntries[i] ≤ 32767 := by
  have hall : ∀ e ∈ sineEntries, -32768 ≤ e ∧ e ≤ 32767 := by decide +kernel
  exact hall _ (List.getElem_mem h)

theorem toNat_lt_length (k : BitVec 8) : k.toNat < sineEntries.length := by
  rw [sineEntries_length]
  exact k.isLt

theorem rom_eq_getElem (k : BitVec 8) : rom hardwareConfig k = sineEntries[k.toNat]'(toNat_lt_length k) := by
  obtain ⟨hlow, hhigh⟩ := getElem_sineEntries_range (toNat_lt_length k)
  rw [← sint_word_of_range hlow hhigh]
  simp [rom, hardwareConfig, hardwareSintab, word]

theorem rom_zero : rom hardwareConfig 0 = 0 := rom_eq_getElem 0

theorem rom_peak : rom hardwareConfig 64 = 32767 := rom_eq_getElem 64

/-- An index `n` entries on, around the circle, is that index in the table rotated by `n`. -/
theorem rom_add (k n : BitVec 8) :
    rom hardwareConfig (k + n) =
      (sineEntries.rotate n.toNat)[k.toNat]'(by rw [List.length_rotate]; exact toNat_lt_length k) := by
  rw [rom_eq_getElem, List.getElem_rotate]
  simp only [BitVec.toNat_add, sineEntries_length]

/-- Half-wave symmetry: half a circle on stands the negative. -/
theorem rom_add_half (k : BitVec 8) : rom hardwareConfig (k + 128) = -rom hardwareConfig k := by
  have htable : sineEntries.rotate (128 : BitVec 8).toNat = sineEntries.map Neg.neg := by decide +kernel
  rw [rom_add, rom_eq_getElem, List.getElem_of_eq htable, List.getElem_map]

/-- Quarter-wave symmetry: the table read backward from entry 128 is the table. -/
theorem rom_half_sub (k : BitVec 8) : rom hardwareConfig (128 - k) = rom hardwareConfig k := by
  have htable : sineEntries.reverse.rotate 127 = sineEntries := by decide +kernel
  have hk := k.isLt
  have hindex : sineEntries.length - 1 - (k.toNat + 127) % sineEntries.reverse.length = (128 - k).toNat := by
    rw [List.length_reverse, sineEntries_length, BitVec.toNat_sub]
    simp only [BitVec.ofNat_eq_ofNat, BitVec.toNat_ofNat]
    omega
  have hentry := List.getElem_of_eq htable (i := k.toNat) (by simp [sineEntries_length, hk])
  rw [List.getElem_rotate, List.getElem_reverse] at hentry
  rw [rom_eq_getElem, rom_eq_getElem, ← hentry]
  simp only [hindex]

theorem rom_neighbours (k : BitVec 8) : (rom hardwareConfig (k + 1) - rom hardwareConfig k).natAbs ≤ 804 := by
  have htable : ∀ d ∈
      List.zipWith (fun x y => (y - x).natAbs) sineEntries (sineEntries.rotate (1 : BitVec 8).toNat), d ≤ 804 := by
    decide +kernel
  rw [rom_add, rom_eq_getElem]
  refine htable _ (List.mem_iff_getElem.mpr ⟨k.toNat, ?_, ?_⟩)
  · simp [sineEntries_length, k.isLt]
  · rw [List.getElem_zipWith]

/-! ## Half a circle away (R92) -/

theorem phaseIndex_add_half (a : Word) : phaseIndex (a + 0x8000#16) = phaseIndex a + 128 := by
  apply BitVec.eq_of_toNat_eq
  have ha := a.isLt
  rw [phaseIndex, phaseIndex, toNat_highByte, BitVec.toNat_add, BitVec.toNat_add, toNat_highByte]
  simp only [BitVec.toNat_ofNat, BitVec.ofNat_eq_ofNat]
  omega

theorem phaseFrac_add_half (a : Word) : phaseFrac (a + 0x8000#16) = phaseFrac a := by
  apply BitVec.eq_of_toNat_eq
  rw [phaseFrac, phaseFrac, toNat_lowByte, BitVec.toNat_add, toNat_lowByte]
  simp only [BitVec.toNat_ofNat]
  omega

/-- The two corrections are floors of opposite fractions. -/
theorem sine_add_half (a : Word) :
    let x := (rom hardwareConfig (phaseIndex a + 1) - rom hardwareConfig (phaseIndex a)) * ((phaseFrac a).toNat : Int)
    sine hardwareConfig (a + 0x8000#16) + sine hardwareConfig a = -x / 256 + x / 256 := by
  intro x
  have hnext : phaseIndex a + 128 + 1 = phaseIndex a + 1 + 128 := by rw [add_assoc, add_comm 128, ← add_assoc]
  have hx : (-rom hardwareConfig (phaseIndex a + 1) - -rom hardwareConfig (phaseIndex a)) *
      ((phaseFrac a).toNat : Int) = -x := by
    simp only [x]
    ring
  rw [sine_interpolated hardwareConfig rfl, sine_interpolated hardwareConfig rfl, phaseIndex_add_half,
    phaseFrac_add_half, hnext, rom_add_half, rom_add_half, hx]
  ring

/-! ## Zero frequency (R103) -/

theorem sine_zero : sine hardwareConfig 0#16 = 0 := by decide +kernel

theorem dispatchSamples_sample (c : Config) (s : State) (ch : Channel) :
    (dispatchSamples c s).regs.sample ch = laneSample c s.regs.gain s.regs.offs ch (nextPhase s.regs) := by
  rw [dispatchSamples_regs]
  cases ch <;> rfl

/-- At phase 0 lane 1 looks up the table's zero, and only the offset is left. -/
theorem laneSample_ch1_phase_zero (gain offs : Word) : laneSample hardwareConfig gain offs .ch1 0#16 = offs := by
  rw [laneSample, lanePhase, sine_zero, scale_eq_word, zero_mul, Int.zero_ediv, zero_add]
  exact BitVec.ofInt_toInt

theorem laneSample_gain_zero (c : Config) (offs : Word) (ch : Channel) (p : Word) :
    laneSample c 0#16 offs ch p = offs :=
  scale_gain_zero offs _

/-! ## Before any parameter arrives (R23, R172) -/

/-- Gain, offset and the three samples are 0. -/
structure Silent (r : Regs) : Prop where
  gain : r.gain = 0#16
  offs : r.offs = 0#16
  sample : ∀ ch, r.sample ch = 0#16

theorem silent_reset : Silent Regs.reset := ⟨rfl, rfl, forall_channel.mpr ⟨rfl, rfl, rfl⟩⟩

/-- A tick computes three zero samples and emits the midscale code of the old ones. -/
theorem Silent.tick {s : State} (h : Silent s.regs) : Silent (dispatchSamples hardwareConfig s).regs := by
  refine ⟨?_, ?_, fun ch => ?_⟩
  · rw [dispatchSamples_regs]
    exact h.gain
  · rw [dispatchSamples_regs]
    exact h.offs
  · rw [dispatchSamples_sample, h.gain, h.offs, laneSample_zero]

theorem Silent.tickEvents {r : Regs} (h : Silent r) :
    tickEvents r =
      [.dacWrite .ch1 0x0800#16, .dacWrite .ch2 0x0800#16, .dacWrite .ch3 0x0800#16, .ack] := by
  have hcode : ∀ ch, dacMap hardwareConfig (r.sample ch) = 0x0800#16 := fun ch => by
    rw [h.sample ch, dacMap_hardware_zero]
  have h1 : dacMap hardwareConfig r.sample1 = 0x0800#16 := hcode .ch1
  have h2 : dacMap hardwareConfig r.sample2 = 0x0800#16 := hcode .ch2
  have h3 : dacMap hardwareConfig r.sample3 = 0x0800#16 := hcode .ch3
  rw [Machine.tickEvents, h1, h2, h3]

theorem Silent.tick_dacLast {s : State} (h : Silent s.regs) (ch : Channel) :
    (dispatchSamples hardwareConfig s).regs.dacLast ch = 0x0800#16 := by
  rw [dispatchSamples_dacLast, h.sample, dacMap_hardware_zero]

/-- A write to another address than those of `GAIN` and `OFFS` leaves the silence. -/
theorem Silent.regWrite {s : State} (h : Silent s.regs) {a : Addr} (hgain : a ≠ 0x2#4) (hoffs : a ≠ 0x3#4)
    (d : Word) : Silent (s.regWrite a d).regs := by
  rw [regWrite_regs, beq_eq_false_iff_ne.mpr hgain, beq_eq_false_iff_ne.mpr hoffs]
  exact ⟨h.gain, h.offs, forall_channel.mpr ⟨h.sample .ch1, h.sample .ch2, h.sample .ch3⟩⟩

theorem Silent.commandEffect {rst tk we : Bool} {a : Addr} {s : State} (h : Silent s.regs)
    (hwrite : rst = true ∨ we = false ∨ (a ≠ 0x2#4 ∧ a ≠ 0x3#4)) (d : Word) :
    Silent (commandEffect rst tk we a d s).regs := by
  rcases hwrite with rfl | rfl | ⟨hgain, hoffs⟩
  · exact silent_reset
  · cases rst <;> cases tk
    · exact h
    · exact h.tick
    · exact silent_reset
    · exact silent_reset
  · cases rst <;> cases tk <;> cases we
    · exact h
    · exact h.regWrite hgain hoffs d
    · exact h.tick
    · exact h.tick.regWrite hgain hoffs d
    all_goals exact silent_reset

/-- `DACLAST1..3` after a serviced tick are those of `TICK`, whatever write stands beside it. -/
theorem commandEffect_tick_dacLast (we : Bool) (a : Addr) (d : Word) (s : State) (ch : Channel) :
    (commandEffect false true we a d s).regs.dacLast ch = (dispatchSamples hardwareConfig s).regs.dacLast ch := by
  cases we
  · rfl
  · exact regWrite_dacLast _ a d ch

/-- Without a write or a reset, and with a zero step, a cycle leaves phase and step parameters. -/
theorem commandEffect_zeroStep (tk : Bool) (a : Addr) (d : Word) (s : State)
    (h : s.regs.pinc = 0#16 ∨ s.regs.pmax = 0#16) :
    (commandEffect false tk false a d s).regs.phase = s.regs.phase ∧
      (commandEffect false tk false a d s).regs.pinc = s.regs.pinc ∧
      (commandEffect false tk false a d s).regs.pmax = s.regs.pmax := by
  have hphase := nextPhase_of_zero_parameter s.regs h
  cases tk
  · exact ⟨rfl, rfl, rfl⟩
  · simp [commandEffect, hphase]

theorem step_silent {rst tk we : Bool} {a : Addr} {d : Word} {r : ReadWord} {s : State} (h : Silent s.regs)
    (hnext : nextInput s = { command := packCommand rst tk we a d, read := r })
    (hwrite : rst = true ∨ we = false ∨ (a ≠ 0x2#4 ∧ a ≠ 0x3#4)) :
    ∃ t : State, step s = .next t ∧ Silent t.regs ∧
      (rst = false → tk = true → (∀ ch, t.regs.dacLast ch = 0x0800#16) ∧
        t.events = s.events ++
          [.dacWrite .ch1 0x0800#16, .dacWrite .ch2 0x0800#16, .dacWrite .ch3 0x0800#16, .ack]) ∧
      (rst = false → we = false → s.regs.pinc = 0#16 ∨ s.regs.pmax = 0#16 →
        t.regs.phase = s.regs.phase ∧ t.regs.pinc = s.regs.pinc ∧ t.regs.pmax = s.regs.pmax) := by
  obtain ⟨start, hregs, hevents, hstep⟩ : ∃ start : State, start.regs = s.regs ∧ start.events = s.events ∧
      step s = .next (noteTimer { command := packCommand rst tk we a d, read := r }
        (commandEffect rst tk we a d start)) :=
    ⟨(beginCycle s).driveRdata (regRead s.regs r), rfl, rfl, step_presented s rst tk we a d r hnext⟩
  rw [← hregs] at h ⊢
  refine ⟨_, hstep, h.commandEffect hwrite d, ?_, ?_⟩
  · rintro rfl rfl
    refine ⟨fun ch => (commandEffect_tick_dacLast we a d start ch).trans (h.tick_dacLast ch), ?_⟩
    rw [noteTimer_events, commandEffect_events, hevents, ← h.tickEvents]
    rfl
  · rintro rfl rfl hzero
    exact commandEffect_zeroStep tk a d start hzero

/-- The registers after a tick from the reset values: the generator at rest, the DACs at midscale. -/
def midscaleRegs : Regs := { Regs.reset with dacLast1 := 0x0800#16, dacLast2 := 0x0800#16, dacLast3 := 0x0800#16 }

/-- A tick overwrites `DACLAST1..3`, so the second tick leaves what the first one did. -/
theorem dispatchSamples_midscale {s : State} (h : s.regs = midscaleRegs) :
    (dispatchSamples hardwareConfig s).regs = midscaleRegs := by
  rw [dispatchSamples_regs, h, nextPhase_of_zero_parameter midscaleRegs (.inl rfl)]
  simp [midscaleRegs, Regs.reset]

theorem run_ticks_midscale (rest : List Input) (n : Nat) (s : State) (h : s.regs = midscaleRegs)
    (hinputs : s.inputs = List.replicate n tickInput ++ rest) :
    ∃ t : State, Sys2Proof.core.run n s = .next t ∧ t.regs = midscaleRegs ∧ t.inputs = rest := by
  induction n generalizing s with
  | zero => exact ⟨s, rfl, h, hinputs⟩
  | succ n ih =>
    obtain ⟨u, hstep, hregs, hrest⟩ := step_tickInput s (List.replicate n tickInput ++ rest) hinputs
    obtain ⟨t, hrun, ht⟩ := ih u (hregs.trans (dispatchSamples_midscale h)) hrest
    exact ⟨t, (core_run_succ n s u hstep).trans hrun, ht⟩

theorem run_ticks_of_reset (rest : List Input) (n : Nat) (s : State) (h : s.regs = Regs.reset)
    (hinputs : s.inputs = List.replicate (n + 1) tickInput ++ rest) :
    ∃ t : State, Sys2Proof.core.run (n + 1) s = .next t ∧ t.regs = midscaleRegs ∧ t.inputs = rest := by
  obtain ⟨u, hstep, hregs, hrest⟩ := step_tickInput s (List.replicate n tickInput ++ rest) hinputs
  obtain ⟨t, hrun, ht⟩ := run_ticks_midscale rest n u (hregs.trans (dispatchSamples_regs_of_reset s h)) hrest
  exact ⟨t, (core_run_succ n s u hstep).trans hrun, ht⟩

end Sys2Proof.Machine

section
open Sys2Proof Sys2Proof.Machine

/-- Settles O29: the magnitude is the negative of the quotient the phase is stepped by (`uint_nextPhase`). -/
theorem negativeIncrementRunsBackward : Obligations.NegativeIncrementRunsBackward := by
  intro phase pinc pmax _
  have hphase := uint_nextPhase { Regs.reset with phase := phase, pinc := pinc, pmax := pmax }
  refine ⟨-(sint pinc * uint pmax / 32768), ?_, ?_⟩
  · have hmagnitude := neg_ediv_eq_or (sint pinc * uint pmax)
    rwa [← neg_mul] at hmagnitude
  · rw [sub_neg_eq_add]
    exact hphase

/-- Settles O31: zeros, peak and trough follow from one zero, the peak and the half-wave symmetry. -/
theorem sineTableSymmetries : Obligations.SineTableSymmetries :=
  ⟨rom_zero, (rom_add_half 0).trans (by rw [rom_zero, neg_zero]), rom_peak,
    (rom_add_half 64).trans (by rw [rom_peak]), rom_hardware_bounds, rom_add_half, rom_half_sub, rom_neighbours,
    by decide +kernel⟩

/-- Settles O35: opposite fractions have floors that sum to 0 or to -1 (`sine_add_half`). -/
theorem sineHalfWaveAntisymmetry : Obligations.SineHalfWaveAntisymmetry := by
  intro a sum
  have hsum := sine_add_half a
  refine ⟨?_, fun hfrac => ?_⟩
  · simp only [sum, hsum]
    omega
  · have hzero : (phaseFrac a).toNat = 0 := (toNat_lowByte a).trans hfrac
    simp [sum, hsum, hzero]

/-- Settles O39: `laneSample` on the three lanes. -/
theorem samplesDependOnPhaseGainOffset : Obligations.SamplesDependOnPhaseGainOffset := by
  refine ⟨fun p gain offs => (laneSample hardwareConfig gain offs .ch1 p, laneSample hardwareConfig gain offs .ch2 p,
    laneSample hardwareConfig gain offs .ch3 p), fun s => ⟨_, exec_tick s, ?_⟩⟩
  rw [dispatchSamples_regs]

/-- Settles O40: with a zero step the second tick computes from the first one's phase, which is the old one. -/
theorem zeroFrequencyIsSteady : Obligations.ZeroFrequencyIsSteady := by
  intro s h
  have hphase := nextPhase_of_zero_parameter s.regs h
  have hregs := dispatchSamples_regs hardwareConfig s
  rw [hphase] at hregs
  have hagain := dispatchSamples_regs hardwareConfig (dispatchSamples hardwareConfig s)
  rw [nextPhase_of_zero_parameter _ (by rw [hregs]; exact h), hregs] at hagain
  refine ⟨_, _, exec_tick s, exec_tick _, ?_, ?_, ?_, ?_, ?_, fun hzero => ?_, fun hgain => ?_⟩
  · rw [hregs]
  · rw [hagain]
  · rw [hagain, hregs]
  · rw [hagain, hregs]
  · rw [hagain, hregs]
  · rw [hregs, hzero]
    exact laneSample_ch1_phase_zero _ _
  · rw [hregs, hgain]
    exact ⟨laneSample_gain_zero .., laneSample_gain_zero .., laneSample_gain_zero ..⟩

/-- Settles O54: a cycle keeps the silence and a serviced tick emits its codes (`step_silent`); from the reset
values the first tick leaves `midscaleRegs` and every later one keeps them. -/
theorem silentUntilParametersArrive : Obligations.SilentUntilParametersArrive := by
  refine ⟨fun s rst tk we a d r rest hgain hoffs h1 h2 h3 hwrite => ?_, fun n s rest => ?_⟩
  · have hsilent : Silent s.regs := ⟨hgain, hoffs, forall_channel.mpr ⟨h1, h2, h3⟩⟩
    obtain ⟨t, hstep, hend, htick, hstill⟩ :=
      step_silent (s := { s with inputs := { command := packCommand rst tk we a d, read := r } :: rest }) hsilent rfl
        hwrite
    refine ⟨t, hstep, hend.gain, hend.offs, hend.sample .ch1, hend.sample .ch2, hend.sample .ch3,
      fun hrst htk => ?_, hstill⟩
    obtain ⟨hdac, hevents⟩ := htick hrst htk
    exact ⟨hdac .ch1, hdac .ch2, hdac .ch3, hevents⟩
  · obtain ⟨t, hrun, hregs, hrest⟩ := run_ticks_of_reset rest n
      { s.holdPins.clearRegs with inputs := List.replicate (n + 1) tickInput ++ rest } rfl rfl
    exact ⟨_, t, exec_reset s, hrun, hregs, hrest⟩

end
end

section
/-!
PROOFS. Blocks of any configuration side by side (00_scope.md R5; 10_state.md R16, R19): `TICK` with a block's own
parameters, and two blocks whose runs agree on everything the parameters do not reach.
-/

namespace Sys2Proof.Machine

/-! ## Two executors in step -/

/-- A relation that two executors keep operation by operation is kept by the operations of a cycle. -/
theorem runOpsWith_rel {ex ex' : Executor} {R : State → State → Prop}
    (hop : ∀ (i : Instr) {s s' : State}, R s s' → ∃ t t', ex i s = .next t ∧ ex' i s' = .next t' ∧ R t t')
    (ops : List Instr) {s s' : State} (h : R s s') :
    ∃ t t', runOpsWith ex ops s = .next t ∧ runOpsWith ex' ops s' = .next t' ∧ R t t' := by
  induction ops generalizing s s' with
  | nil => exact ⟨s, s', rfl, rfl, h⟩
  | cons i ops ih =>
    obtain ⟨u, u', hexec, hexec', hu⟩ := hop i h
    obtain ⟨t, t', hrun, hrun', ht⟩ := ih hu
    exact ⟨t, t', (runOpsWith_cons_next ..).mpr ⟨u, hexec, hrun⟩,
      (runOpsWith_cons_next ..).mpr ⟨u', hexec', hrun'⟩, ht⟩

/-! ## What two builds share (R16, R19) -/

/-- Agreement on what no configuration parameter reaches. -/
structure SamePhase (s s' : State) : Prop where
  phase : s.regs.phase = s'.regs.phase
  params : s.regs.params = s'.regs.params
  events : s.events.length = s'.events.length
  inputs : s.inputs = s'.inputs

theorem SamePhase.fields {s s' : State} (h : SamePhase s s') :
    s.regs.pinc = s'.regs.pinc ∧ s.regs.pmax = s'.regs.pmax ∧ s.regs.gain = s'.regs.gain ∧
      s.regs.offs = s'.regs.offs := by
  simpa [Regs.params] using h.params

theorem SamePhase.regWrite {s s' : State} (h : SamePhase s s') (a : Addr) (d : Word) :
    SamePhase (s.regWrite a d) (s'.regWrite a d) := by
  obtain ⟨hpinc, hpmax, hgain, hoffs⟩ := h.fields
  refine ⟨?_, ?_, ?_, ?_⟩
  · rw [regWrite_regs, regWrite_regs]
    exact h.phase
  · simp [Regs.params, regWrite_regs, hpinc, hpmax, hgain, hoffs]
  · rw [regWrite_events, regWrite_events]
    exact h.events
  · rw [regWrite_inputs, regWrite_inputs]
    exact h.inputs

/-- The new phase comes from phase and step parameters, and every build emits four events. -/
theorem SamePhase.tick {s s' : State} (h : SamePhase s s') (c c' : Config) :
    SamePhase (dispatchSamples c s) (dispatchSamples c' s') := by
  obtain ⟨hpinc, hpmax, -, -⟩ := h.fields
  refine ⟨?_, ?_, ?_, ?_⟩
  · rw [dispatchSamples_regs, dispatchSamples_regs]
    simp only [nextPhase, h.phase, hpinc, hpmax]
  · rw [dispatchSamples_regs, dispatchSamples_regs]
    exact h.params
  · simp [h.events]
  · rw [dispatchSamples_inputs, dispatchSamples_inputs]
    exact h.inputs

theorem execBuild_samePhase (c c' : Config) (i : Instr) {s s' : State} (h : SamePhase s s') :
    ∃ t t', execBuild c i s = .next t ∧ execBuild c' i s' = .next t' ∧ SamePhase t t' := by
  cases i with
  | reset => exact ⟨_, _, rfl, rfl, ⟨rfl, rfl, h.events, h.inputs⟩⟩
  | tick => exact ⟨_, _, rfl, rfl, h.tick c c'⟩
  | wrPinc d => exact ⟨_, _, rfl, rfl, h.regWrite 0x0#4 d⟩
  | wrPmax d => exact ⟨_, _, rfl, rfl, h.regWrite 0x1#4 d⟩
  | wrGain d => exact ⟨_, _, rfl, rfl, h.regWrite 0x2#4 d⟩
  | wrOffs d => exact ⟨_, _, rfl, rfl, h.regWrite 0x3#4 d⟩
  | wrIgn4 a d => exact ⟨_, _, rfl, rfl, h.regWrite a d⟩
  | wrIgn8 a d => exact ⟨_, _, rfl, rfl, h.regWrite a d⟩
  | wrIgnC a d => exact ⟨_, _, rfl, rfl, h.regWrite a d⟩
  | nop => exact ⟨_, _, rfl, rfl, ⟨h.phase, h.params, h.events, h.inputs⟩⟩
  | rd a => exact ⟨_, _, rfl, rfl, ⟨h.phase, h.params, h.events, h.inputs⟩⟩

theorem stepBuild_samePhase (c c' : Config) {s s' : State} (h : SamePhase s s') :
    ∃ t t', stepBuild c s = .next t ∧ stepBuild c' s' = .next t' ∧ SamePhase t t' := by
  have hnext : nextInput s = nextInput s' := by rw [nextInput, nextInput, h.inputs]
  have hbegin : SamePhase (beginCycle s) (beginCycle s') :=
    ⟨h.phase, h.params, h.events, by rw [beginCycle_inputs, beginCycle_inputs, h.inputs]⟩
  obtain ⟨u, u', hrun, hrun', hu⟩ :=
    runOpsWith_rel (fun i _ _ => execBuild_samePhase c c' i) (cycleOps (nextInput s)) hbegin
  rw [hnext] at hrun'
  exact ⟨_, _, (stepBuild_next c s _).mpr ⟨u, hrun, rfl⟩, (stepBuild_next c' s' _).mpr ⟨u', hrun', rfl⟩,
    ⟨hu.phase, hu.params, hu.events, hu.inputs⟩⟩

theorem run_samePhase (c c' : Config) (n : Nat) {s s' : State} (h : SamePhase s s') :
    ∃ t t', (buildCore c).run n s = .next t ∧ (buildCore c').run n s' = .next t' ∧ SamePhase t t' := by
  induction n generalizing s s' with
  | zero => exact ⟨s, s', rfl, rfl, h⟩
  | succ n ih =>
    obtain ⟨u, u', hstep, hstep', hu⟩ := stepBuild_samePhase c c' h
    obtain ⟨t, t', hrun, hrun', ht⟩ := ih hu
    exact ⟨t, t', (run_succ_next (buildCore c) n s u hstep).trans hrun,
      (run_succ_next (buildCore c') n s' u' hstep').trans hrun', ht⟩

end Sys2Proof.Machine

section
open Sys2Proof Sys2Proof.Machine

/-- Settles O56: `dispatchSamples_eq` with the phase as one wrapped sum; the other operations are `execBuild_ne_tick`
and the cycle is `stepBuild_total`. -/
theorem everyBuildTicksWithItsParameters : Obligations.EveryBuildTicksWithItsParameters := by
  intro c s P p sample code
  have hphase : nextPhase s.regs = p := nextPhase_eq_word s.regs
  refine ⟨?_, fun i => execBuild_ne_tick c i s, stepBuild_total c s⟩
  rw [execBuild_tick, dispatchSamples_eq, dispatchSamples_regs, dispatchSamples_pins, dispatchSamples_events, hphase]
  rfl

/-- Settles O58: both builds start from one state, and a run keeps `SamePhase`. -/
theorem buildsShareTheirPhase : Obligations.BuildsShareTheirPhase := by
  intro c c' n s
  obtain ⟨t, t', hrun, hrun', h⟩ := run_samePhase c c' n (s := s) ⟨rfl, rfl, rfl, rfl⟩
  obtain ⟨hpinc, hpmax, hgain, hoffs⟩ := h.fields
  exact ⟨t, t', hrun, hrun', h.phase, hpinc, hpmax, hgain, hoffs, h.events, h.inputs⟩

end
end

section
/-!
PROOFS. The host's pseudo-operations (43_parameter_registers.md R120 to R124): truncation toward zero as floor and
ceiling, the words of `SETFREQ`, `SETGAIN` and `SETOFFS`, and the four writes of a control pass.
-/

namespace Sys2Proof.Machine

/-! ## Truncation toward zero (R120) -/

theorem truncRat_of_nonneg {x : Rat} (h : 0 ≤ x) : truncRat x = ⌊x⌋ := by
  rw [truncRat, Int.tdiv_eq_ediv_of_nonneg (Rat.num_nonneg.mpr h), Rat.floor_def']

theorem truncRat_neg (x : Rat) : truncRat (-x) = -truncRat x := by
  rw [truncRat, truncRat, Rat.neg_num, Rat.neg_den, Int.neg_tdiv]

theorem truncRat_of_nonpos {x : Rat} (h : x ≤ 0) : truncRat x = ⌈x⌉ := by
  have hneg := truncRat_of_nonneg (neg_nonneg.mpr h)
  rw [truncRat_neg, Int.floor_neg] at hneg
  exact neg_injective hneg

theorem truncRat_eq (x : Rat) : truncRat x = if 0 ≤ x then ⌊x⌋ else ⌈x⌉ := by
  split_ifs with h
  · exact truncRat_of_nonneg h
  · exact truncRat_of_nonpos (le_of_not_ge h)

theorem floor_bounds {x : Rat} {n : Int} (hlow : 0 ≤ x) (hhigh : x ≤ n) : 0 ≤ ⌊x⌋ ∧ ⌊x⌋ ≤ n :=
  ⟨Int.floor_nonneg.mpr hlow, Int.cast_le.mp ((Int.floor_le x).trans hhigh)⟩

theorem ceil_bounds {x : Rat} {n : Int} (hlow : -n ≤ x) (hhigh : x ≤ 0) : -n ≤ ⌈x⌉ ∧ ⌈x⌉ ≤ 0 := by
  obtain ⟨hnonneg, hle⟩ := floor_bounds (neg_nonneg.mpr hhigh) (neg_le.mp hlow)
  rw [Int.floor_neg] at hnonneg hle
  omega

/-! ## The words written (R121 to R123) -/

/-- The word of a unit value: its product with 32767, truncated. -/
def unitWord (u : Rat) : Word := word (truncRat (u * 32767))

/-- The word `SETFREQ` writes to `PMAX`. -/
def pmaxWord (maxHz samplingHz : Rat) : Word := word (truncRat (maxHz * 65536 / samplingHz))

theorem setFreq_eq {desiredHz maxHz samplingHz : Rat} (hmax : maxHz ≠ 0) (hsampling : samplingHz ≠ 0) :
    setFreq desiredHz maxHz samplingHz =
      some [.wrPmax (pmaxWord maxHz samplingHz), .wrPinc (unitWord (desiredHz / maxHz))] := by
  simp [setFreq, hmax, hsampling, fullCircleUnits, halfCircleUnits, pmaxWord, unitWord]

theorem setFreq_zero_divisor {desiredHz maxHz samplingHz : Rat} (h : maxHz = 0 ∨ samplingHz = 0) :
    setFreq desiredHz maxHz samplingHz = none :=
  if_pos h

theorem setGain_eq (h : HostConfig) (u : Rat) : setGain h u = [.wrGain (unitWord (h.unitValue 0 1 u))] := by
  simp [setGain, unitWord, fullScalePositive]

theorem setOffs_eq (h : HostConfig) (u : Rat) : setOffs h u = [.wrOffs (unitWord (h.unitValue (-1) 1 u))] := by
  simp [setOffs, unitWord, fullScalePositive]

/-- A caller that clamps, case by case. -/
theorem unitValue_clamped {lo hi : Rat} (h : lo ≤ hi) (u : Rat) :
    HostConfig.unitValue { callerClamps := true } lo hi u = if u < lo then lo else if hi < u then hi else u := by
  have hclamp : HostConfig.unitValue { callerClamps := true } lo hi u = max lo (min hi u) := rfl
  rw [hclamp]
  split_ifs with hlow hhigh
  · exact max_eq_left ((min_le_right _ _).trans hlow.le)
  · rw [min_eq_left hhigh.le, max_eq_right h]
  · rw [min_eq_right (not_lt.mp hhigh), max_eq_right (not_lt.mp hlow)]

/-- Up to half the sampling frequency `PMAX` is the floor of its formula and at most 32768. -/
theorem uint_pmaxWord {maxHz samplingHz : Rat} (hmax : 0 ≤ maxHz) (hsampling : 0 < samplingHz)
    (hnyquist : maxHz ≤ samplingHz / 2) :
    uint (pmaxWord maxHz samplingHz) = ⌊maxHz * 65536 / samplingHz⌋ ∧ uint (pmaxWord maxHz samplingHz) ≤ 32768 := by
  have hnonneg : 0 ≤ maxHz * 65536 / samplingHz := by positivity
  have hle : maxHz * 65536 / samplingHz ≤ (32768 : Int) := by
    rw [div_le_iff₀ hsampling]
    push_cast
    linarith
  obtain ⟨hfloor, hfloor_le⟩ := floor_bounds hnonneg hle
  rw [pmaxWord, truncRat_of_nonneg hnonneg, uint_word]
  omega

theorem pmaxWord_half {samplingHz : Rat} (h : 0 < samplingHz) : pmaxWord (samplingHz / 2) samplingHz = 0x8000#16 := by
  have hquotient : samplingHz / 2 * 65536 / samplingHz = (32768 : Int) := by
    push_cast
    field_simp
    norm_num
  rw [pmaxWord, hquotient, truncRat_of_nonneg (by norm_num), Int.floor_intCast]
  rfl

theorem uint_unitWord (u : Rat) : uint (unitWord u) = truncRat (u * 32767) % 65536 := uint_word _

theorem unitFloor_bounds {u : Rat} (hlow : 0 ≤ u) (hhigh : u ≤ 1) : 0 ≤ ⌊u * 32767⌋ ∧ ⌊u * 32767⌋ ≤ 32767 :=
  floor_bounds (by positivity) (by push_cast; linarith)

theorem unitCeil_bounds {u : Rat} (hlow : -1 ≤ u) (hhigh : u ≤ 0) : -32767 ≤ ⌈u * 32767⌉ ∧ ⌈u * 32767⌉ ≤ 0 :=
  ceil_bounds (by push_cast; linarith) (by linarith)

/-- A unit value in 0..1 gives a word whose signed value is the floor. -/
theorem sint_unitWord_of_nonneg {u : Rat} (hlow : 0 ≤ u) (hhigh : u ≤ 1) : sint (unitWord u) = ⌊u * 32767⌋ := by
  obtain ⟨hnonneg, hle⟩ := unitFloor_bounds hlow hhigh
  rw [unitWord, truncRat_of_nonneg (by positivity), sint_word_of_range (by omega) (by omega)]

theorem sint_unitWord_of_nonpos {u : Rat} (hlow : -1 ≤ u) (hhigh : u ≤ 0) : sint (unitWord u) = ⌈u * 32767⌉ := by
  obtain ⟨hge, hle⟩ := unitCeil_bounds hlow hhigh
  rw [unitWord, truncRat_of_nonpos (by linarith), sint_word_of_range (by omega) (by omega)]

/-- A unit value in -1..1 gives a word whose signed value is the truncation itself. -/
theorem sint_unitWord {u : Rat} (hlow : -1 ≤ u) (hhigh : u ≤ 1) : sint (unitWord u) = truncRat (u * 32767) := by
  rcases le_total 0 u with h | h
  · rw [sint_unitWord_of_nonneg h hhigh, truncRat_of_nonneg (by positivity)]
  · rw [sint_unitWord_of_nonpos hlow h, truncRat_of_nonpos (by linarith)]

theorem unitWord_zero : unitWord 0 = 0x0000#16 := by decide +kernel

theorem unitWord_one : unitWord 1 = 0x7FFF#16 := by decide +kernel

theorem unitWord_neg_one : unitWord (-1) = 0x8001#16 := by decide +kernel

/-! ## A control pass (R124) -/

theorem ctrlPass_eq (h : HostConfig) (o : OperatorSettings) :
    ctrlPass h o =
      (setFreq o.outputFrequencyHz o.maxOutputFrequencyHz o.samplingFrequencyHz).map
        (fun freq => freq ++ setGain h o.gain ++ setOffs h o.offset) := by
  rw [ctrlPass]
  cases setFreq o.outputFrequencyHz o.maxOutputFrequencyHz o.samplingFrequencyHz <;> rfl

/-- Where it exists a control pass is one write to each parameter register. -/
theorem ctrlPass_writes {h : HostConfig} {o : OperatorSettings} {ops : List Instr} (hpass : ctrlPass h o = some ops) :
    ∃ m p g f : Word, ops = [.wrPmax m, .wrPinc p, .wrGain g, .wrOffs f] := by
  rw [ctrlPass_eq, Option.map_eq_some_iff] at hpass
  obtain ⟨freq, hfreq, rfl⟩ := hpass
  rw [setFreq, Option.ite_none_left_eq_some, Option.some_inj] at hfreq
  obtain ⟨-, rfl⟩ := hfreq
  exact ⟨_, _, _, _, rfl⟩

theorem runOps_fourWrites (m p g f : Word) (s : State) :
    runOps [.wrPmax m, .wrPinc p, .wrGain g, .wrOffs f] s =
      .next { s with regs := { s.regs with pinc := p, pmax := m, gain := g, offs := f } } := rfl

end Sys2Proof.Machine

section
open Sys2Proof Sys2Proof.Machine

/-- Settles O50: `PMAX` is `pmaxWord` and `PINC` the word of the ratio in 0..1, so both are in range and the step stays
below the ceiling (`uint_phaseStep_le_floor`). -/
theorem setFreqWritesInRangeWords : Obligations.SetFreqWritesInRangeWords := by
  intro desiredHz maxHz samplingHz hdesired hle hmax hsampling hnyquist
  have hratio : 0 ≤ desiredHz / maxHz := by positivity
  have hratio_le : desiredHz / maxHz ≤ 1 := (div_le_one hmax).mpr hle
  have hpinc := sint_unitWord_of_nonneg hratio hratio_le
  obtain ⟨hpinc_nonneg, -⟩ := unitFloor_bounds hratio hratio_le
  rw [← hpinc] at hpinc_nonneg
  obtain ⟨hpmax, hpmax_le⟩ := uint_pmaxWord hmax.le hsampling hnyquist
  have hstep := uint_phaseStep_le_floor (pmaxWord maxHz samplingHz) hpinc_nonneg
  rw [uint_eq] at hpmax_le
  rw [uint_eq, uint_eq] at hstep
  refine ⟨_, _, setFreq_eq hmax.ne' hsampling.ne', hpmax, hpinc, by omega, hpinc_nonneg, by omega, ?_, ?_, ?_⟩
  · rintro rfl
    rw [zero_div, unitWord_zero]
  · rintro rfl
    rw [div_self hmax.ne', unitWord_one]
  · rintro rfl
    exact pmaxWord_half hsampling

/-- Settles O51: with no clamping caller the word is `unitWord` of the operand, whose signed value is the floor for an
operand in 0..1 and the ceiling for one in -1..0. -/
theorem setGainAndSetOffsTruncate : Obligations.SetGainAndSetOffsTruncate := by
  refine ⟨fun u hlow hhigh => ?_, fun u hlow hhigh => ?_, fun u hlow hneg => ?_⟩
  · have hfloor := sint_unitWord_of_nonneg hlow hhigh
    obtain ⟨hnonneg, -⟩ := unitFloor_bounds hlow hhigh
    exact ⟨unitWord u, setGain_eq _ u, hfloor, hnonneg.trans_eq hfloor.symm⟩
  · have hfloor := sint_unitWord_of_nonneg hlow hhigh
    obtain ⟨hnonneg, -⟩ := unitFloor_bounds hlow hhigh
    exact ⟨unitWord u, setOffs_eq _ u, hfloor, hnonneg.trans_eq hfloor.symm⟩
  · have hceil := sint_unitWord_of_nonpos hlow hneg.le
    obtain ⟨hge, -⟩ := unitCeil_bounds hlow hneg.le
    exact ⟨unitWord u, setOffs_eq _ u, hceil, hge.trans_eq hceil.symm⟩

/-- Settles O53: the words are `word` of a truncation, so their unsigned values are its remainders; the clamped unit
value is one of the bounds or the operand itself (`unitValue_clamped`). -/
theorem hostConversionsOfAnyOperands : Obligations.HostConversionsOfAnyOperands := by
  unfold Obligations.HostConversionsOfAnyOperands
  intro trunc
  have htrunc : ∀ x, truncRat x = trunc x := truncRat_eq
  refine ⟨fun desiredHz maxHz samplingHz hmax hsampling => ?_, fun u => ?_, fun u => ?_, fun desiredHz other => ?_,
    fun h o hzero => ?_⟩
  · refine ⟨_, _, setFreq_eq hmax hsampling, ?_, ?_⟩
    · rw [← htrunc]
      exact uint_word _
    · rw [← htrunc]
      exact uint_unitWord _
  · rw [← htrunc]
    exact ⟨_, _, setGain_eq _ u, setOffs_eq _ u, uint_unitWord u, uint_unitWord u⟩
  · refine ⟨_, _, setGain_eq _ u, setOffs_eq _ u, ?_, ?_⟩
    · rw [unitValue_clamped (by norm_num)]
      split_ifs with hlow hhigh
      · rw [unitWord_zero]
        rfl
      · rw [unitWord_one]
        rfl
      · exact sint_unitWord_of_nonneg (not_lt.mp hlow) (not_lt.mp hhigh)
    · rw [unitValue_clamped (by norm_num)]
      split_ifs with hlow hhigh
      · rw [unitWord_neg_one]
        rfl
      · rw [unitWord_one]
        rfl
      · exact (sint_unitWord (not_lt.mp hlow) (not_lt.mp hhigh)).trans (htrunc _)
  · exact ⟨setFreq_zero_divisor (.inl rfl), setFreq_zero_divisor (.inr rfl)⟩
  · rw [ctrlPass_eq, setFreq_zero_divisor hzero, Option.map_none]

/-- Settles O52: the pass is `ctrlPass_eq`, its four writes `ctrlPass_writes`, and the second run stores the same four
words (`runOps_fourWrites`). -/
theorem controlPassIsIdempotent : Obligations.ControlPassIsIdempotent := by
  refine fun h o => ⟨ctrlPass_eq h o, fun ops hpass => ?_⟩
  obtain ⟨m, p, g, f, rfl⟩ := ctrlPass_writes hpass
  exact ⟨⟨m, p, g, f, rfl⟩, fun s => ⟨_, runOps_fourWrites m p g f s, runOps_fourWrites m p g f _⟩⟩

end
end
